-- ==== Sys2Proof/Word.lean ====
section
/-! DEFINITION. The word types of the hardware: bytes, 16-bit words, register numbers (spec/00_scope.md R8, R15). -/

namespace Sys2Proof

/-- A byte: a general register, a timer, a memory cell (R8). -/
abbrev Byte := BitVec 8

/-- A 16-bit word: `I`, `PC`, a return address, `RNG`, an instruction word (R8). -/
abbrev Word := BitVec 16

/-- A general register number, 0 to 15 (R20). -/
abbrev Reg := Fin 16

end Sys2Proof
end

