-- ==== Sys2Proof/Config.lean ====
section
/-! DEFINITION. What is fixed for the machine: the sizes of R8 that definitions name (the others
are in the types of `State`), and what the arguments of Reset are (R9 to R12). -/

namespace Sys2Proof

/-- The arguments of the Reset event (R260, R9 to R12). -/
structure ResetArgs where
  /-- `PC_RESET`, where the ROM is loaded and execution starts (R9). -/
  pcReset : Word
  /-- `FONT_BASE`, where the font is loaded (R10). -/
  fontBase : Word
  /-- `SEED` of the random generator (R11). -/
  seed : Word
  /-- `ROM`, a raw byte string (R12). -/
  rom : List Byte
  deriving DecidableEq, Repr

namespace Config

/-- `MEM_SIZE`: addresses are 0 to 0xFFF (R8, R50). -/
def memSize : Nat := 0x1000

/-- `DISPLAY_WIDTH` (R8). -/
def displayWidth : Nat := 64

/-- `NUM_KEYS` (R8). -/
def numKeys : Nat := 16

end Config

end Sys2Proof
end

