-- ==== Sys2Proof/Machine/Boot.lean ====
section
/-! DEFINITION. What Reset puts into the machine: the font of R262, and the arguments of `State.reset`. -/

namespace Sys2Proof.Config

/-- The glyphs 0 to 7 of the font table (R262). UNVERIFIED (log 4), unsafe: the source gives no bytes. -/
def fontLow : List Byte :=
  [0xF0, 0x90, 0x90, 0x90, 0xF0] ++ [0x20, 0x60, 0x20, 0x20, 0x70] ++
  [0xF0, 0x10, 0xF0, 0x80, 0xF0] ++ [0xF0, 0x10, 0xF0, 0x10, 0xF0] ++
  [0x90, 0x90, 0xF0, 0x10, 0x10] ++ [0xF0, 0x80, 0xF0, 0x10, 0xF0] ++
  [0xF0, 0x80, 0xF0, 0x90, 0xF0] ++ [0xF0, 0x10, 0x20, 0x40, 0x40]

/-- The glyphs 8 to F of the font table (R262). UNVERIFIED (log 4), unsafe: the source gives no bytes. -/
def fontHigh : List Byte :=
  [0xF0, 0x90, 0xF0, 0x90, 0xF0] ++ [0xF0, 0x90, 0xF0, 0x10, 0xF0] ++
  [0xF0, 0x90, 0xF0, 0x90, 0x90] ++ [0xE0, 0x90, 0xE0, 0x90, 0xE0] ++
  [0xF0, 0x80, 0x80, 0x80, 0xF0] ++ [0xE0, 0x90, 0x90, 0x90, 0xE0] ++
  [0xF0, 0x80, 0xF0, 0x80, 0xF0] ++ [0xF0, 0x80, 0xF0, 0x80, 0x80]

/-- `FONT[0..79]`, glyph `d` at `FONT[5*d .. 5*d+4]` (R262). -/
def font : List Byte := fontLow ++ fontHigh

/-- The Reset arguments of `State.reset`: the defaults of R9 and R10, no ROM, and seed 1.
DESIGN CHOICE (log 1, 2, 3, 17), unsafe: the source fixes none of the four. -/
def resetArgs : ResetArgs := { pcReset := 0x200, fontBase := 0x000, seed := 0x0001, rom := [] }

/-- `RNG` in `State.reset`: the seed of `resetArgs` advanced by 16 steps (R203, R42; 95_test_vectors.md section 2.7). -/
def resetRng : Word := 0xB111

end Sys2Proof.Config
end

