-- ==== Sys2Proof/Syntax.lean ====
section
/-! DEFINITION. The instructions: one constructor per row of spec/opcode_table.json (R75). -/

namespace Sys2Proof

/-- The 34 instructions of R75. `x`, `y` are register numbers, `n`, `nn`, `nnn` the immediates of R71, R73. -/
inductive Instr where
  /-- `00E0` `CLS` (R175) -/
  | cls
  /-- `00EE` `RET` (R133) -/
  | ret
  /-- `1NNN` `JP NNN` (R131) -/
  | jp (nnn : BitVec 12)
  /-- `2NNN` `CALL NNN` (R132) -/
  | call (nnn : BitVec 12)
  /-- `3XNN` `SE VX, NN` (R135) -/
  | seImm (x : Reg) (nn : Byte)
  /-- `4XNN` `SNE VX, NN` (R136) -/
  | sneImm (x : Reg) (nn : Byte)
  /-- `5XY0` `SE VX, VY` (R137) -/
  | seReg (x y : Reg)
  /-- `6XNN` `LD VX, NN` (R120) -/
  | ldImm (x : Reg) (nn : Byte)
  /-- `7XNN` `ADD VX, NN` (R101) -/
  | addImm (x : Reg) (nn : Byte)
  /-- `8XY0` `LD VX, VY` (R121) -/
  | ldReg (x y : Reg)
  /-- `8XY1` `OR VX, VY` (R102) -/
  | orReg (x y : Reg)
  /-- `8XY2` `AND VX, VY` (R103) -/
  | andReg (x y : Reg)
  /-- `8XY3` `XOR VX, VY` (R104) -/
  | xorReg (x y : Reg)
  /-- `8XY4` `ADD VX, VY` (R105) -/
  | addReg (x y : Reg)
  /-- `8XY5` `SUB VX, VY` (R106) -/
  | subReg (x y : Reg)
  /-- `8XY6` `SHR VX`; `y` is ignored (R107, R78) -/
  | shr (x y : Reg)
  /-- `8XY7` `SUBN VX, VY` (R108) -/
  | subnReg (x y : Reg)
  /-- `8XYE` `SHL VX`; `y` is ignored (R109, R78) -/
  | shl (x y : Reg)
  /-- `9XY0` `SNE VX, VY` (R138) -/
  | sneReg (x y : Reg)
  /-- `ANNN` `LD I, NNN` (R122) -/
  | ldI (nnn : BitVec 12)
  /-- `BNNN` `JP V0, NNN` (R134) -/
  | jpV0 (nnn : BitVec 12)
  /-- `CXNN` `RND VX, NN` (R196) -/
  | rnd (x : Reg) (nn : Byte)
  /-- `DXYN` `DRW VX, VY, N` (R176) -/
  | drw (x y : Reg) (n : BitVec 4)
  /-- `EX9E` `SKP VX` (R190) -/
  | skp (x : Reg)
  /-- `EXA1` `SKNP VX` (R191) -/
  | sknp (x : Reg)
  /-- `FX07` `LD VX, DT` (R193) -/
  | ldVxDt (x : Reg)
  /-- `FX0A` `LD VX, K` (R192) -/
  | ldVxK (x : Reg)
  /-- `FX15` `LD DT, VX` (R194) -/
  | ldDtVx (x : Reg)
  /-- `FX18` `LD ST, VX` (R195) -/
  | ldStVx (x : Reg)
  /-- `FX1E` `ADD I, VX` (R150) -/
  | addI (x : Reg)
  /-- `FX29` `LD F, VX` (R151) -/
  | ldF (x : Reg)
  /-- `FX33` `LD B, VX` (R153) -/
  | ldB (x : Reg)
  /-- `FX55` `LD [I], VX` (R156) -/
  | storeRegs (x : Reg)
  /-- `FX65` `LD VX, [I]` (R157) -/
  | loadRegs (x : Reg)
  deriving DecidableEq, Repr

end Sys2Proof
end

