-- ==== Sys2Proof/WellFormed.lean ====
section
/-! DEFINITION. What the types do not check: an instruction word against the opcode map (R75), and the arguments of
Reset against R10 to R12 and R263. The ranges of an instruction's operands are in the types of `Instr`. -/

namespace Sys2Proof

/-- A row of the opcode map: a word `op` selects it exactly when `op AND mask == code` (R75; `code` is its `match`). -/
structure OpRow where
  mask : Word
  code : Word
  deriving DecidableEq, Repr

/-- The word selects the row (R75). -/
def OpRow.selects (r : OpRow) (op : Word) : Bool := op &&& r.mask == r.code

/-- The row of each instruction, as the map of R75 writes it. UNVERIFIED (log 16), unsafe: general knowledge. -/
def Instr.row : Instr → OpRow
  | .cls => ⟨0xFFFF, 0x00E0⟩
  | .ret => ⟨0xFFFF, 0x00EE⟩
  | .jp _ => ⟨0xF000, 0x1000⟩
  | .call _ => ⟨0xF000, 0x2000⟩
  | .seImm _ _ => ⟨0xF000, 0x3000⟩
  | .sneImm _ _ => ⟨0xF000, 0x4000⟩
  | .seReg _ _ => ⟨0xF00F, 0x5000⟩
  | .ldImm _ _ => ⟨0xF000, 0x6000⟩
  | .addImm _ _ => ⟨0xF000, 0x7000⟩
  | .ldReg _ _ => ⟨0xF00F, 0x8000⟩
  | .orReg _ _ => ⟨0xF00F, 0x8001⟩
  | .andReg _ _ => ⟨0xF00F, 0x8002⟩
  | .xorReg _ _ => ⟨0xF00F, 0x8003⟩
  | .addReg _ _ => ⟨0xF00F, 0x8004⟩
  | .subReg _ _ => ⟨0xF00F, 0x8005⟩
  | .shr _ _ => ⟨0xF00F, 0x8006⟩
  | .subnReg _ _ => ⟨0xF00F, 0x8007⟩
  | .shl _ _ => ⟨0xF00F, 0x800E⟩
  | .sneReg _ _ => ⟨0xF00F, 0x9000⟩
  | .ldI _ => ⟨0xF000, 0xA000⟩
  | .jpV0 _ => ⟨0xF000, 0xB000⟩
  | .rnd _ _ => ⟨0xF000, 0xC000⟩
  | .drw _ _ _ => ⟨0xF000, 0xD000⟩
  | .skp _ => ⟨0xF0FF, 0xE09E⟩
  | .sknp _ => ⟨0xF0FF, 0xE0A1⟩
  | .ldVxDt _ => ⟨0xF0FF, 0xF007⟩
  | .ldVxK _ => ⟨0xF0FF, 0xF00A⟩
  | .ldDtVx _ => ⟨0xF0FF, 0xF015⟩
  | .ldStVx _ => ⟨0xF0FF, 0xF018⟩
  | .addI _ => ⟨0xF0FF, 0xF01E⟩
  | .ldF _ => ⟨0xF0FF, 0xF029⟩
  | .ldB _ => ⟨0xF0FF, 0xF033⟩
  | .storeRegs _ => ⟨0xF0FF, 0xF055⟩
  | .loadRegs _ => ⟨0xF0FF, 0xF065⟩

/-- One instruction for each row of R75, in its order; the operands do not matter to `Instr.row`. -/
def rowInstrs : List Instr :=
  [.cls, .ret, .jp 0, .call 0, .seImm 0 0, .sneImm 0 0, .seReg 0 0, .ldImm 0 0, .addImm 0 0] ++
  [.ldReg 0 0, .orReg 0 0, .andReg 0 0, .xorReg 0 0, .addReg 0 0, .subReg 0 0, .shr 0 0, .subnReg 0 0, .shl 0 0] ++
  [.sneReg 0 0, .ldI 0, .jpV0 0, .rnd 0 0, .drw 0 0 0, .skp 0, .sknp 0, .ldVxDt 0, .ldVxK 0, .ldDtVx 0, .ldStVx 0] ++
  [.addI 0, .ldF 0, .ldB 0, .storeRegs 0, .loadRegs 0]

/-- The opcode map of R75. -/
def opcodeTable : List OpRow := rowInstrs.map Instr.row

/-- The word is an instruction: it selects a row of the map. Every other word is illegal (R77, R81). -/
def legalWord (op : Word) : Bool := opcodeTable.any (·.selects op)

/-- The font fits: `FONT_BASE + 80 <= 0x1000` (R10, R263). -/
def ResetArgs.fontFits (a : ResetArgs) : Bool := a.fontBase.toNat + Config.font.length ≤ Config.memSize

/-- The ROM fits: `PC_RESET + L <= 0x1000` (R12, R263). -/
def ResetArgs.romFits (a : ResetArgs) : Bool := a.pcReset.toNat + a.rom.length ≤ Config.memSize

/-- The arguments with which Reset succeeds: the font fits, the ROM fits, the seed is not 0 (R263). -/
def ResetArgs.wellFormed (a : ResetArgs) : Bool := a.fontFits && a.romFits && a.seed != 0

end Sys2Proof
end

