-- ==== Sys2Proof/Decode.lean ====
section
/-! DEFINITION. The decoder of R74, the encoder written from the formats of R72, and the byte order of R54. -/

namespace Sys2Proof

/-- Why bytes are no instruction: fewer than two of them, or a word of the illegal set (R81), by name. -/
inductive DecodeError where
  | truncated
  | unknownOpcode (op : Word)
  deriving DecidableEq, Repr

/-- `hi ++ lo`: the first byte of an instruction is the high byte of its word (R15, R54). -/
def joinBytes (hi lo : Byte) : Word := hi ++ lo

/-- The high byte of a word, `w[15:8]` (R15). -/
def highByte (w : Word) : Byte := w.extractLsb' 8 8

/-- The low byte of a word, `w[7:0]` (R15). -/
def lowByte (w : Word) : Byte := w.extractLsb' 0 8

/-- The register number that a nibble holds (R71, R73). -/
def regOfNibble (f : BitVec 4) : Reg := ⟨f.toNat, f.isLt⟩

/-- The nibble that holds a register number (R71, R73). -/
def nibbleOfReg (r : Reg) : BitVec 4 := ⟨r⟩

/-- `n3 = op[15:12]`, the family nibble (R18, R71). -/
def fieldN3 (op : Word) : Nat := (op.extractLsb' 12 4).toNat

/-- `X = op[11:8]` (R18, R71). -/
def fieldX (op : Word) : Reg := regOfNibble (op.extractLsb' 8 4)

/-- `Y = op[7:4]` (R18, R71). -/
def fieldY (op : Word) : Reg := regOfNibble (op.extractLsb' 4 4)

/-- `N = op[3:0]` (R18, R71). -/
def fieldN (op : Word) : BitVec 4 := op.extractLsb' 0 4

/-- `NN = op[7:0]` (R18, R71). -/
def fieldNN (op : Word) : Byte := op.extractLsb' 0 8

/-- `NNN = op[11:0]` (R18, R71). -/
def fieldNNN (op : Word) : BitVec 12 := op.extractLsb' 0 12

/-- The words `0x0...` (R74): two instructions and nothing else (R139). -/
def decode0 (op : Word) : Except DecodeError Instr :=
  if op = 0x00E0 then .ok .cls
  else if op = 0x00EE then .ok .ret
  else .error (.unknownOpcode op)

/-- The words `0x8...`, by their last nibble (R74). -/
def decode8 (op : Word) : Except DecodeError Instr :=
  match (fieldN op).toNat with
  | 0x0 => .ok (.ldReg (fieldX op) (fieldY op))
  | 0x1 => .ok (.orReg (fieldX op) (fieldY op))
  | 0x2 => .ok (.andReg (fieldX op) (fieldY op))
  | 0x3 => .ok (.xorReg (fieldX op) (fieldY op))
  | 0x4 => .ok (.addReg (fieldX op) (fieldY op))
  | 0x5 => .ok (.subReg (fieldX op) (fieldY op))
  | 0x6 => .ok (.shr (fieldX op) (fieldY op))
  | 0x7 => .ok (.subnReg (fieldX op) (fieldY op))
  | 0xE => .ok (.shl (fieldX op) (fieldY op))
  | _ => .error (.unknownOpcode op)

/-- The words `0xE...`, by their second byte (R74). -/
def decodeE (op : Word) : Except DecodeError Instr :=
  if fieldNN op = 0x9E then .ok (.skp (fieldX op))
  else if fieldNN op = 0xA1 then .ok (.sknp (fieldX op))
  else .error (.unknownOpcode op)

/-- The words `0xF...`, by their second byte (R74). -/
def decodeF (op : Word) : Except DecodeError Instr :=
  if fieldNN op = 0x07 then .ok (.ldVxDt (fieldX op))
  else if fieldNN op = 0x0A then .ok (.ldVxK (fieldX op))
  else if fieldNN op = 0x15 then .ok (.ldDtVx (fieldX op))
  else if fieldNN op = 0x18 then .ok (.ldStVx (fieldX op))
  else if fieldNN op = 0x1E then .ok (.addI (fieldX op))
  else if fieldNN op = 0x29 then .ok (.ldF (fieldX op))
  else if fieldNN op = 0x33 then .ok (.ldB (fieldX op))
  else if fieldNN op = 0x55 then .ok (.storeRegs (fieldX op))
  else if fieldNN op = 0x65 then .ok (.loadRegs (fieldX op))
  else .error (.unknownOpcode op)

/-- `Decode(op)`, the decision tree of R74. It reads the word alone; every word outside the map is illegal (R81).
UNVERIFIED (log 16), unsafe: the encodings are general knowledge but for the three words of R76. -/
def decode (op : Word) : Except DecodeError Instr :=
  match fieldN3 op with
  | 0x0 => decode0 op
  | 0x1 => .ok (.jp (fieldNNN op))
  | 0x2 => .ok (.call (fieldNNN op))
  | 0x3 => .ok (.seImm (fieldX op) (fieldNN op))
  | 0x4 => .ok (.sneImm (fieldX op) (fieldNN op))
  | 0x5 => if fieldN op = 0 then .ok (.seReg (fieldX op) (fieldY op)) else .error (.unknownOpcode op)
  | 0x6 => .ok (.ldImm (fieldX op) (fieldNN op))
  | 0x7 => .ok (.addImm (fieldX op) (fieldNN op))
  | 0x8 => decode8 op
  | 0x9 => if fieldN op = 0 then .ok (.sneReg (fieldX op) (fieldY op)) else .error (.unknownOpcode op)
  | 0xA => .ok (.ldI (fieldNNN op))
  | 0xB => .ok (.jpV0 (fieldNNN op))
  | 0xC => .ok (.rnd (fieldX op) (fieldNN op))
  | 0xD => .ok (.drw (fieldX op) (fieldY op) (fieldN op))
  | 0xE => decodeE op
  | 0xF => decodeF op
  | _ => .error (.unknownOpcode op)

/-- Decode the first two bytes of a list, high byte first (R54, R70); the rest of the list comes back. -/
def decodeBytes : List Byte → Except DecodeError (Instr × List Byte)
  | hi :: lo :: rest => (decode (joinBytes hi lo)).map (·, rest)
  | _ => .error .truncated

/-- Format `NNN` of R72. -/
def formNNN (n3 : BitVec 4) (nnn : BitVec 12) : Word := n3 ++ nnn

/-- Format `XNN` of R72. -/
def formXNN (n3 : BitVec 4) (x : Reg) (nn : Byte) : Word := n3 ++ nibbleOfReg x ++ nn

/-- Formats `XY` and `XYN` of R72. -/
def formXYN (n3 : BitVec 4) (x y : Reg) (n : BitVec 4) : Word := n3 ++ nibbleOfReg x ++ nibbleOfReg y ++ n

/-- Format `X` of R72: the second byte selects the function. -/
def formX (n3 : BitVec 4) (x : Reg) (fn : Byte) : Word := n3 ++ nibbleOfReg x ++ fn

/-- The word of an instruction, from the patterns of R75 and the formats of R72. -/
def encode : Instr → Word
  | .cls => 0x00E0
  | .ret => 0x00EE
  | .jp nnn => formNNN 0x1 nnn
  | .call nnn => formNNN 0x2 nnn
  | .seImm x nn => formXNN 0x3 x nn
  | .sneImm x nn => formXNN 0x4 x nn
  | .seReg x y => formXYN 0x5 x y 0x0
  | .ldImm x nn => formXNN 0x6 x nn
  | .addImm x nn => formXNN 0x7 x nn
  | .ldReg x y => formXYN 0x8 x y 0x0
  | .orReg x y => formXYN 0x8 x y 0x1
  | .andReg x y => formXYN 0x8 x y 0x2
  | .xorReg x y => formXYN 0x8 x y 0x3
  | .addReg x y => formXYN 0x8 x y 0x4
  | .subReg x y => formXYN 0x8 x y 0x5
  | .shr x y => formXYN 0x8 x y 0x6
  | .subnReg x y => formXYN 0x8 x y 0x7
  | .shl x y => formXYN 0x8 x y 0xE
  | .sneReg x y => formXYN 0x9 x y 0x0
  | .ldI nnn => formNNN 0xA nnn
  | .jpV0 nnn => formNNN 0xB nnn
  | .rnd x nn => formXNN 0xC x nn
  | .drw x y n => formXYN 0xD x y n
  | .skp x => formX 0xE x 0x9E
  | .sknp x => formX 0xE x 0xA1
  | .ldVxDt x => formX 0xF x 0x07
  | .ldVxK x => formX 0xF x 0x0A
  | .ldDtVx x => formX 0xF x 0x15
  | .ldStVx x => formX 0xF x 0x18
  | .addI x => formX 0xF x 0x1E
  | .ldF x => formX 0xF x 0x29
  | .ldB x => formX 0xF x 0x33
  | .storeRegs x => formX 0xF x 0x55
  | .loadRegs x => formX 0xF x 0x65

/-- The bytes of an instruction as they lie in memory, high byte at the lower address (R54). -/
def encodeBytes (i : Instr) : List Byte := [highByte (encode i), lowByte (encode i)]

/-- The instruction word that spec/opcode_table.json's numbering gives: one word, bit 0 its least significant bit, the
bits from `nbits` up being 0. -/
def tableWord (nbits w : Nat) : Word := BitVec.ofNat 16 (w % 2 ^ nbits)

/-- The instruction this decoder reads from a word of the opcode table, laid out as memory holds it. -/
def decodeTableWord (nbits w : Nat) : Option Instr :=
  match decodeBytes [highByte (tableWord nbits w), lowByte (tableWord nbits w)] with
  | .ok (i, _) => some i
  | .error _ => none

end Sys2Proof
end

