-- ==== Sys2Proof/Machine/State.lean ====
section
/-! DEFINITION. The state of the core, its fault causes, the pending events of its environment, and the state after Reset. -/

namespace Sys2Proof.Machine

/-- The closed set of fault causes with their info (R220, R221). A raised cause is latched in `State.fault` and the step
goes on to a next state (R230, log 8); no step of this model answers `Outcome.fault`. -/
inductive Fault where
  /-- Code 1 (R222): raised by the fetch, by `DXYN`, `FX33`, `FX55`, `FX65` and by Reset's load on an access at or above
  0x1000; safe, the spec's own behaviour. -/
  | addressOutOfRange (addr : Word)
  /-- Code 2 (R223): raised by the decoder on a word outside the opcode map; safe, the model stops where laxer hardware
  could go on. -/
  | unknownOpcode (op : Word)
  /-- Code 3 (R224): raised by `EX9E` and `EXA1` on a register value of 16 or more; safe, the spec's own behaviour. -/
  | keyIndexOutOfRange (v : Byte)
  /-- Code 4 (R225): raised by `2NNN` on a full stack; safe, the spec's own behaviour. -/
  | stackOverflow
  /-- Code 5 (R226): raised by `00EE` on an empty stack; safe, the spec's own behaviour. -/
  | stackUnderflow
  /-- Code 6 (R227): raised by Reset with `SEED = 0`; safe, the spec's own behaviour. -/
  | zeroSeed
  /-- Code 7 (R228): raised by nobody here, the display has a fixed size (R174); safe. -/
  | invalidDisplayDimensions
  /-- Code 8 (R228): raised by nobody here, the key port has a fixed width (R174); safe. -/
  | invalidKeyVectorLength
  deriving DecidableEq, Repr

/-- Why a step has no meaning. -/
inductive Refusal where
  /-- Raised by an arm of `exec` whose instruction has no meaning yet; safe. No arm raises it. -/
  | notModelled (mnemonic : String)
  deriving DecidableEq, Repr

/-- One event of the environment (R6, R7, R272). -/
inductive Event where
  /-- One CpuCycle with its sample of the key port (R270, R38). -/
  | cpuCycle (keys : Word)
  /-- One TimerTick (R33). -/
  | timerTick
  /-- One Reset with its arguments (R260). -/
  | reset (args : ResetArgs)
  deriving DecidableEq, Repr

/-- The display grid: 32 rows of 64 bits (R37, R170). DESIGN CHOICE (log 15), safe: bit `c` of a row is column `c`. -/
abbrev Grid := Vector (BitVec 64) 32

/-- The state of the core (10_state.md section 1, R20 to R42), and the inputs that the step reads. -/
structure State where
  /-- `V0` to `VF` (R20). -/
  v : Vector Byte 16
  /-- The index register `I` (R23). -/
  i : Word
  /-- The program counter `PC` (R24). -/
  pc : Word
  /-- The call stack's entries (R27). -/
  stack : Vector Word 16
  /-- `SP`, the number of entries in use, 0 to 16 (R27). DESIGN CHOICE (log 11), safe: the range is in the type. -/
  sp : Fin 17
  /-- The delay timer `DT` (R31). -/
  dt : Byte
  /-- The sound timer `ST` (R32). -/
  st : Byte
  /-- The random generator's register `RNG` (R34). -/
  rng : Word
  /-- The font base register (R35). -/
  fontBase : Word
  /-- The memory, in canonical form (R36, R50). -/
  mem : List Host.Cell
  /-- The display (R37). -/
  pix : Grid
  /-- The fault latch `FAULT` (R39). -/
  fault : Option Fault
  /-- The key sample that the current instruction sees (R38, R270): an input, held by the model (log 7). -/
  keys : Word
  /-- The environment's pending events, oldest first (R13, R272): an input, held by the model (log 6). -/
  schedule : List Event
  deriving DecidableEq, Repr

/-- The font as Reset's load leaves it in zeroed memory, at the default font base (R261, R262). -/
def State.resetMem : List Host.Cell :=
  (Config.font.zipIdx Config.resetArgs.fontBase.toNat).map fun p => (p.2, p.1)

/-- The state after a Reset with the arguments `Config.resetArgs` (R42, R260): `RNG` is the seed 0x0001 advanced by 16
steps (R203). The zeros are the spec's choice (R42, log 5); the arguments are this model's (log 1, 2, 3, 17); keys and
schedule are inputs (log 6, 7). DESIGN CHOICE, unsafe. -/
def State.reset : State where
  v := Vector.replicate 16 0
  i := 0
  pc := Config.resetArgs.pcReset
  stack := Vector.replicate 16 0
  sp := 0
  dt := 0
  st := 0
  rng := Config.resetRng
  fontBase := Config.resetArgs.fontBase
  mem := State.resetMem
  pix := Vector.replicate 32 0
  fault := none
  keys := 0
  schedule := []

end Sys2Proof.Machine
end

