-- ==== Sys2Proof/Machine/Ops.lean ====
section
/-! DEFINITION. The operations that every meaning is written in: memory, registers, the call stack, the four
directives, raising a fault, and the outputs of the core. -/

namespace Sys2Proof.Machine

/-! ### Memory (20_memory.md) -/

/-- The memory as data: the bytes that differ from what an unlisted address reads as, by rising address. -/
abbrev Memory := List Host.Cell

/-- What an address that is not listed reads as: the memory is "zero-initialized" (R50; log 10). -/
def Memory.unlisted : Byte := 0

/-- The byte at an address. -/
def Memory.read : Memory → Nat → Byte
  | [], _ => Memory.unlisted
  | c :: m, a => if c.1 = a then c.2 else Memory.read m a

/-- The memory without an entry for an address. -/
def Memory.erase (m : Memory) (a : Nat) : Memory := m.filter fun c => c.1 != a

/-- Insert a cell before the first one of a higher address. -/
def Memory.insertCell (c : Host.Cell) : Memory → Memory
  | [] => [c]
  | d :: m => if c.1 < d.1 then c :: d :: m else d :: Memory.insertCell c m

/-- Write one byte; a byte equal to `Memory.unlisted` is not listed, so equal memories are equal lists. -/
def Memory.write (m : Memory) (a : Nat) (b : Byte) : Memory :=
  if b = Memory.unlisted then Memory.erase m a else Memory.insertCell (a, b) (Memory.erase m a)

/-- The canonical form: addresses strictly rising and inside the memory (R50), no entry that says nothing. -/
abbrev Memory.wf (m : Memory) : Prop :=
  m.Pairwise (fun c d => c.1 < d.1) ∧ ∀ c ∈ m, c.2 ≠ Memory.unlisted ∧ c.1 < Config.memSize

/-! ### Registers: one update for each part of the state (10_state.md) -/

namespace State

/-- `V[x]` (R16, R20). -/
def reg (s : State) (x : Reg) : Byte := s.v.get x

/-- `V[x] <- b` (R16, R20): no register is hardwired. -/
def setReg (s : State) (x : Reg) (b : Byte) : State := { s with v := s.v.set x.val b x.isLt }

/-- `I <- a` (R23). -/
def setI (s : State) (a : Word) : State := { s with i := a }

/-- `PC <- a` (R24). -/
def setPc (s : State) (a : Word) : State := { s with pc := a }

/-- New stack entries and a new `SP` (R27). -/
def setStack (s : State) (entries : Vector Word 16) (sp : Fin 17) : State := { s with stack := entries, sp := sp }

/-- `DT <- b` (R31). -/
def setDt (s : State) (b : Byte) : State := { s with dt := b }

/-- `ST <- b` (R32). -/
def setSt (s : State) (b : Byte) : State := { s with st := b }

/-- `RNG <- r` (R34). -/
def setRng (s : State) (r : Word) : State := { s with rng := r }

/-- `FONT_BASE <- a` (R35): Reset only. -/
def setFontBase (s : State) (a : Word) : State := { s with fontBase := a }

/-- A new memory (R36). -/
def setMem (s : State) (m : Memory) : State := { s with mem := m }

/-- A new display (R37). -/
def setPix (s : State) (g : Grid) : State := { s with pix := g }

/-- `FAULT <- f` (R39). -/
def setFault (s : State) (f : Option Fault) : State := { s with fault := f }

/-- A new key sample (R38, R270). -/
def setKeys (s : State) (k : Word) : State := { s with keys := k }

/-- The pending events that are left (R272). -/
def setSchedule (s : State) (es : List Event) : State := { s with schedule := es }

/-- The byte in memory at an address. -/
def byteAt (s : State) (a : Nat) : Byte := Memory.read s.mem a

/-- `pix[row][col]` (R37). -/
def pixel (s : State) (row : Fin 32) (col : Fin 64) : Bool := (s.pix.get row).getLsbD col

/-- `keys[k]`, for `k` 0 to 15 (R38, R197). -/
def keyDown (s : State) (k : Nat) : Bool := s.keys.getLsbD k

end State

/-! ### Outputs of the core (R7) -/

/-- The `buzzer` output: 1 while `ST > 0` (R44). -/
def State.buzzer (s : State) : Bool := 0 < s.st.toNat

/-- The numeric code of a cause (R221). -/
def Fault.code : Fault → BitVec 4
  | .addressOutOfRange _ => 1
  | .unknownOpcode _ => 2
  | .keyIndexOutOfRange _ => 3
  | .stackOverflow => 4
  | .stackUnderflow => 5
  | .zeroSeed => 6
  | .invalidDisplayDimensions => 7
  | .invalidKeyVectorLength => 8

/-- The info value of a cause, 0 where it has none (R221, R41). -/
def Fault.info : Fault → Word
  | .addressOutOfRange addr => addr
  | .unknownOpcode op => op
  | .keyIndexOutOfRange v => v.setWidth 16
  | .stackOverflow => 0
  | .stackUnderflow => 0
  | .zeroSeed => 0
  | .invalidDisplayDimensions => 0
  | .invalidKeyVectorLength => 0

/-- The `fault` output: the cause code and the info value of the latch (R7, R221). -/
def State.faultPort (s : State) : Option (BitVec 4 × Word) := s.fault.map fun f => (f.code, f.info)

/-! ### Taking a fault (R230) -/

/-- `raise Cause(info)`: the latch is set and nothing else changes; the directive is not applied, so `PC` keeps the address
of the faulting instruction (R230, R17). There is no handler, and no return but Reset (R233, `resetEvent`). -/
def State.raise (s : State) (f : Fault) : State := s.setFault (some f)

/-! ### Directives (R17) -/

/-- The four directives, the only way an instruction changes `PC` (R17). -/
inductive Directive where
  | wait
  | next
  | skip
  | jump (addr : Word)
  deriving DecidableEq, Repr

/-- Apply a directive to `PC` (R17); the additions are on 16 bits. -/
def State.applyDirective (s : State) : Directive → State
  | .wait => s
  | .next => s.setPc (s.pc + 2)
  | .skip => s.setPc (s.pc + 4)
  | .jump addr => s.setPc addr

/-- What an instruction's pseudocode comes to: the state its effects leave, with the directive it ends in, or with the
fault that stopped it; what was written before a fault stays written (R16, R155). -/
inductive Effect where
  | done (s : State) (d : Directive)
  | raised (s : State) (f : Fault)
  deriving DecidableEq, Repr

/-- End an instruction: its directive is applied last (R17, R270), or its fault is latched and no directive applied. -/
def commit : Effect → Host.Outcome State Fault Refusal
  | .done s d => .next (s.applyDirective d)
  | .raised s f => .next (s.raise f)

/-! ### Checked accesses (R52, R53) and loops of them (R58, R155) -/

/-- `MemRead(addr, 1)` (R52). -/
def memRead (s : State) (addr : Nat) : Except Fault Byte :=
  if addr < Config.memSize then .ok (s.byteAt addr) else .error (.addressOutOfRange (BitVec.ofNat 16 addr))

/-- `MemWrite(addr, 1, b)` (R53): a failed write changes nothing. -/
def memWrite (s : State) (addr : Nat) (b : Byte) : Except Fault State :=
  if addr < Config.memSize then .ok (s.setMem (Memory.write s.mem addr b))
  else .error (.addressOutOfRange (BitVec.ofNat 16 addr))

/-- Do the steps of a loop in order; the first that raises ends it, and what the earlier ones did stays (R155). -/
def forEach {σ : Type} (f : Nat → σ → Except Fault σ) : List Nat → σ → σ × Option Fault
  | [], s => (s, none)
  | k :: ks, s =>
    match f k s with
    | .ok s' => forEach f ks s'
    | .error e => (s, some e)

/-- A loop of accesses, then a directive unless one of them raised. -/
def endLoop (r : State × Option Fault) (after : State → State) (d : Directive) : Effect :=
  match r with
  | (s, none) => .done (after s) d
  | (s, some f) => .raised s f

/-! ### The call stack (R29, R30) -/

/-- `Push(v)` (R29): entry `SP` is written, then `SP` goes up. A failed push changes nothing. -/
def push (s : State) (v : Word) : Except Fault State :=
  if h : s.sp.val < 16 then .ok (s.setStack (s.stack.set s.sp.val v h) ⟨s.sp.val + 1, by omega⟩)
  else .error .stackOverflow

/-- `Pop()` (R30): `SP` goes down, then entry `SP` is the result. A failed pop changes nothing. -/
def pop (s : State) : Except Fault (Word × State) :=
  if h : 0 < s.sp.val then
    .ok (s.stack[s.sp.val - 1]'(by omega), s.setStack s.stack ⟨s.sp.val - 1, by omega⟩)
  else .error .stackUnderflow

end Sys2Proof.Machine
end

