-- ==== Sys2Proof/Machine/Quirks.lean ====
section
/-! DEFINITION. The quirk parameters of R14: the decided values that every rule assumes, and the alternatives a model may
carry. Each meaning reads them from `Quirks.decided`. `Q_DRAW_CLIP` and the waiting form of `Q_KEY_WAIT` are not
carried (log 14). -/

namespace Sys2Proof.Machine

/-- `Q_SHIFT_SOURCE` (R14, R107, R109). -/
inductive ShiftSource where
  | vx
  | vy
  deriving DecidableEq, Repr

/-- `Q_LOADSTORE_INC_I` (R14, R156, R157): what is added to `I` after a dump or load. -/
inductive IndexStep where
  | none
  | x
  | xPlus1
  deriving DecidableEq, Repr

/-- `Q_JUMP_OFFSET_REG` (R14, R134). -/
inductive JumpOffset where
  | v0
  | vx
  deriving DecidableEq, Repr

/-- `Q_FONT_INDEX_MASK` (R14, R151). -/
inductive FontMask where
  | none
  | lowNibble
  deriving DecidableEq, Repr

/-- `Q_KEY_WAIT`, as far as it says which held key is taken (R14, R192; the highest is U11's alternative). -/
inductive KeyPick where
  | levelLowest
  | levelHighest
  deriving DecidableEq, Repr

/-- `Q_SYS_0NNN` (R14, R139). -/
inductive SysWords where
  | illegal
  | nop
  deriving DecidableEq, Repr

/-- The quirk parameters of R14. -/
structure Quirks where
  shiftSource : ShiftSource
  logicClearsVF : Bool
  loadStoreIncI : IndexStep
  jumpOffsetReg : JumpOffset
  addISetsVF : Bool
  fontIndexMask : FontMask
  keyWait : KeyPick
  sys0NNN : SysWords
  deriving DecidableEq, Repr

/-- The decided value of each parameter (R14; D8, D11, D14, D16 to D19, D21). UNVERIFIED (log 13), unsafe. -/
def Quirks.decided : Quirks where
  shiftSource := .vx
  logicClearsVF := false
  loadStoreIncI := .none
  jumpOffsetReg := .v0
  addISetsVF := false
  fontIndexMask := .none
  keyWait := .levelLowest
  sys0NNN := .illegal

end Sys2Proof.Machine
end

