-- ==== Sys2Proof/Machine/Operands.lean ====
section
/-! DEFINITION. The operand forms: immediates, implied registers, effective addresses, font addresses, decimal digits,
held keys. -/

namespace Sys2Proof.Machine

/-- `zext_16` of a byte (R16). -/
def zextByte (b : Byte) : Word := b.setWidth 16

/-- `zext_16(NNN)` (R73). -/
def zextNNN (nnn : BitVec 12) : Word := nnn.setWidth 16

/-- The register `VF` (R22). -/
def vf : Reg := 15

/-- The register that `NNN[11:8]` names, the `X` of `BXNN` (R14, R71). -/
def highNibbleReg (nnn : BitVec 12) : Reg := ⟨(nnn.extractLsb' 8 4).toNat, (nnn.extractLsb' 8 4).isLt⟩

/-- The operand of a shift: `V[X]`, or `V[Y]` in the alternative (R107, R109). -/
def shiftOperand (q : ShiftSource) (s : State) (x y : Reg) : Byte :=
  match q with
  | .vx => s.reg x
  | .vy => s.reg y

/-- The offset of `BNNN`: `V[0]`, or `V[X]` in the alternative (R134, R14). -/
def jumpOffset (q : JumpOffset) (s : State) (nnn : BitVec 12) : Byte :=
  match q with
  | .v0 => s.reg 0
  | .vx => s.reg (highNibbleReg nnn)

/-- `EA(k) = I + k`, computed exactly (R154, R68). -/
def effAddr (s : State) (k : Nat) : Nat := s.i.toNat + k

/-- The digit that `FX29` uses: the whole register, or its low nibble in the alternative (R151). -/
def fontDigit (q : FontMask) (b : Byte) : Byte :=
  match q with
  | .none => b
  | .lowNibble => b &&& 0x0F

/-- `(FONT_BASE + 5 * digit) mod 65536` (R151). -/
def fontAddr (s : State) (digit : Byte) : Word := s.fontBase + 5 * zextByte digit

/-- The decimal digits of a byte by offset: hundreds, tens, units (R153). -/
def bcdDigit (b : Byte) : Nat → Byte
  | 0 => BitVec.ofNat 8 (b.toNat / 100)
  | 1 => BitVec.ofNat 8 (b.toNat / 10 % 10)
  | _ => BitVec.ofNat 8 (b.toNat % 10)

/-- `V[k]` for the loop counter of a dump or load, `k` 0 to 15 (R156, R157). -/
def loopReg (k : Nat) : Reg := Fin.ofNat 16 k

/-- What a dump or load of `V0` to `VX` adds to `I` (R156, R157): nothing, or the alternatives of R14. -/
def indexStep (q : IndexStep) (x : Reg) : Word :=
  match q with
  | .none => 0
  | .x => BitVec.ofNat 16 x.val
  | .xPlus1 => BitVec.ofNat 16 (x.val + 1)

/-- The held key that `FX0A` takes, if any is held: the lowest-numbered, or the highest in the alternative (R192, U11). -/
def heldKey (q : KeyPick) (s : State) : Option Nat :=
  match q with
  | .levelLowest => (List.range Config.numKeys).find? s.keyDown
  | .levelHighest => (List.range Config.numKeys).reverse.find? s.keyDown

end Sys2Proof.Machine
end

