-- ==== Sys2Proof/Machine/Flags.lean ====
section
/-! DEFINITION. The flag computations: carry, no-borrow, the bit shifted out, and the order in which a result and its
flag are written (R100, R105 to R109). -/

namespace Sys2Proof.Machine

/-- A flag as the byte that `VF` receives: 0 or 1 (R22). -/
def flagByte (f : Bool) : Byte := if f then 1 else 0

/-- The carry out of bit 7: the true sum exceeds 255 (R105). -/
def carryOut (a b : Byte) : Bool := 255 < a.toNat + b.toNat

/-- No borrow: the minuend is at least the subtrahend (R106, R108). -/
def noBorrow (minuend subtrahend : Byte) : Bool := subtrahend.toNat ≤ minuend.toNat

/-- The bit that a shift right drops (R107). -/
def shrOut (a : Byte) : Bool := a.getLsbD 0

/-- The bit that a shift left drops (R109). -/
def shlOut (a : Byte) : Bool := a.getLsbD 7

/-- `VF <- f` (R22): the whole register is written. -/
def State.setFlag (s : State) (f : Bool) : State := s.setReg vf (flagByte f)

/-- Write the result, then the flag, so that with `X = F` the flag stands (R100). -/
def State.setResult (s : State) (x : Reg) (r : Byte) (f : Bool) : State := (s.setReg x r).setFlag f

/-- Write the result of a logic instruction, with no flag; the alternative clears `VF` after it (R102 to R104, R14). -/
def State.setLogic (s : State) (clearsVF : Bool) (x : Reg) (r : Byte) : State :=
  if clearsVF then (s.setReg x r).setFlag false else s.setReg x r

end Sys2Proof.Machine
end

