-- ==== Sys2Proof/Machine/Arithmetic.lean ====
section
/-! DEFINITION. Arithmetic, logic and shift instructions (40_arithmetic_logic.md): all sources are read, the result is
written, then the flag, then `Next` (R100). -/

namespace Sys2Proof.Machine

/-- `7XNN`, `ADD VX, NN` (R101): no flag. -/
def execAddImm (x : Reg) (nn : Byte) (s : State) : Host.Outcome State Fault Refusal :=
  commit (.done (s.setReg x (s.reg x + nn)) .next)

/-- `8XY1`, `OR VX, VY` (R102). -/
def execOrReg (x y : Reg) (s : State) : Host.Outcome State Fault Refusal :=
  commit (.done (s.setLogic Quirks.decided.logicClearsVF x (s.reg x ||| s.reg y)) .next)

/-- `8XY2`, `AND VX, VY` (R103). -/
def execAndReg (x y : Reg) (s : State) : Host.Outcome State Fault Refusal :=
  commit (.done (s.setLogic Quirks.decided.logicClearsVF x (s.reg x &&& s.reg y)) .next)

/-- `8XY3`, `XOR VX, VY` (R104). -/
def execXorReg (x y : Reg) (s : State) : Host.Outcome State Fault Refusal :=
  commit (.done (s.setLogic Quirks.decided.logicClearsVF x (s.reg x ^^^ s.reg y)) .next)

/-- `8XY4`, `ADD VX, VY` (R105). -/
def execAddReg (x y : Reg) (s : State) : Host.Outcome State Fault Refusal :=
  commit (.done (s.setResult x (s.reg x + s.reg y) (carryOut (s.reg x) (s.reg y))) .next)

/-- `8XY5`, `SUB VX, VY` (R106). -/
def execSubReg (x y : Reg) (s : State) : Host.Outcome State Fault Refusal :=
  commit (.done (s.setResult x (s.reg x - s.reg y) (noBorrow (s.reg x) (s.reg y))) .next)

/-- `8XY6`, `SHR VX` (R107). -/
def execShr (x y : Reg) (s : State) : Host.Outcome State Fault Refusal :=
  let a := shiftOperand Quirks.decided.shiftSource s x y
  commit (.done (s.setResult x (a >>> 1) (shrOut a)) .next)

/-- `8XY7`, `SUBN VX, VY` (R108). -/
def execSubnReg (x y : Reg) (s : State) : Host.Outcome State Fault Refusal :=
  commit (.done (s.setResult x (s.reg y - s.reg x) (noBorrow (s.reg y) (s.reg x))) .next)

/-- `8XYE`, `SHL VX` (R109). -/
def execShl (x y : Reg) (s : State) : Host.Outcome State Fault Refusal :=
  let a := shiftOperand Quirks.decided.shiftSource s x y
  commit (.done (s.setResult x (a <<< 1) (shlOut a)) .next)

end Sys2Proof.Machine
end

