-- ==== Sys2Proof/Machine/Control.lean ====
section
/-! DEFINITION. Control-flow instructions (42_control_flow.md). A target is any 16-bit value; it is checked by the next
fetch, not by the jump (R130). -/

namespace Sys2Proof.Machine

/-- `1NNN`, `JP NNN` (R131). -/
def execJp (nnn : BitVec 12) (s : State) : Host.Outcome State Fault Refusal :=
  commit (.done s (.jump (zextNNN nnn)))

/-- `2NNN`, `CALL NNN` (R132): the address of the next instruction is pushed. -/
def execCall (nnn : BitVec 12) (s : State) : Host.Outcome State Fault Refusal :=
  match push s (s.pc + 2) with
  | .ok s' => commit (.done s' (.jump (zextNNN nnn)))
  | .error f => commit (.raised s f)

/-- `00EE`, `RET` (R133). -/
def execRet (s : State) : Host.Outcome State Fault Refusal :=
  match pop s with
  | .ok (addr, s') => commit (.done s' (.jump addr))
  | .error f => commit (.raised s f)

/-- `BNNN`, `JP V0, NNN` (R134): the sum is not reduced modulo 4096. -/
def execJpV0 (nnn : BitVec 12) (s : State) : Host.Outcome State Fault Refusal :=
  commit (.done s (.jump (zextNNN nnn + zextByte (jumpOffset Quirks.decided.jumpOffsetReg s nnn))))

/-- `Skip` if the condition holds, else `Next` (R25). -/
def skipIf (c : Bool) : Directive := if c then .skip else .next

/-- `3XNN`, `SE VX, NN` (R135). -/
def execSeImm (x : Reg) (nn : Byte) (s : State) : Host.Outcome State Fault Refusal :=
  commit (.done s (skipIf (s.reg x == nn)))

/-- `4XNN`, `SNE VX, NN` (R136). -/
def execSneImm (x : Reg) (nn : Byte) (s : State) : Host.Outcome State Fault Refusal :=
  commit (.done s (skipIf (s.reg x != nn)))

/-- `5XY0`, `SE VX, VY` (R137). -/
def execSeReg (x y : Reg) (s : State) : Host.Outcome State Fault Refusal :=
  commit (.done s (skipIf (s.reg x == s.reg y)))

/-- `9XY0`, `SNE VX, VY` (R138). -/
def execSneReg (x y : Reg) (s : State) : Host.Outcome State Fault Refusal :=
  commit (.done s (skipIf (s.reg x != s.reg y)))

end Sys2Proof.Machine
end

