-- ==== Sys2Proof/Machine/Display.lean ====
section
/-! DEFINITION. The display unit and its instructions (44_display.md). -/

namespace Sys2Proof.Machine

/-- A display with every pixel off. -/
def blankGrid : Grid := Vector.replicate 32 0

/-- `Clear()` (R171). -/
def State.clearDisplay (s : State) : State := s.setPix blankGrid

/-- One turn of `Draw`'s loop on the pixels of one row: bit `7 - k` of the sprite byte meets column `(x + k) mod 64`; the
pixel is XORed, and a set pixel that meets a set bit is a collision (R172). -/
def drawBit (x : Nat) (b : Byte) (row : BitVec 64 × Bool) (k : Nat) : BitVec 64 × Bool :=
  let col := (x + k) % Config.displayWidth
  let newBit := b.getLsbD (7 - k)
  let old := row.1.getLsbD col
  (if newBit then row.1 ^^^ BitVec.twoPow 64 col else row.1, row.2 || (old && newBit))

/-- The row of the display that `y` names, `y mod 32` (R172). -/
def rowIndex (y : Nat) : Fin 32 := Fin.ofNat 32 y

/-- `Draw(x, y, b)` (R172): the new display and the collision result. Every pixel wraps on its own. -/
def drawRow (x y : Nat) (b : Byte) (g : Grid) : Grid × Bool :=
  let r := (List.range 8).foldl (drawBit x b) (g.get (rowIndex y), false)
  (g.set (rowIndex y).val r.1 (rowIndex y).isLt, r.2)

/-- One turn of `DXYN`'s loop: read the byte at `I + k`, draw it on row `y + k`, OR the collision (R176, R177). -/
def drawSpriteRow (x y : Nat) (k : Nat) (s : State × Bool) : Except Fault (State × Bool) :=
  match memRead s.1 (effAddr s.1 k) with
  | .ok b =>
    let d := drawRow x (y + k) b s.1.pix
    .ok (s.1.setPix d.1, s.2 || d.2)
  | .error f => .error f

/-- `00E0`, `CLS` (R175). -/
def execCls (s : State) : Host.Outcome State Fault Refusal := commit (.done s.clearDisplay .next)

/-- `DXYN`, `DRW VX, VY, N` (R176): the coordinates are read first, `VF` is written once after the last row, and not at
all if a row's byte is out of range. -/
def execDrw (x y : Reg) (n : BitVec 4) (s : State) : Host.Outcome State Fault Refusal :=
  match forEach (drawSpriteRow (s.reg x).toNat (s.reg y).toNat) (List.range n.toNat) (s, false) with
  | ((s', collided), none) => commit (.done (s'.setFlag collided) .next)
  | ((s', _), some f) => commit (.raised s' f)

end Sys2Proof.Machine
end

