-- ==== Sys2Proof/Machine/Index.lean ====
section
/-! DEFINITION. Index register and memory instructions (43_memory_index.md): bytes at `I`, `I + 1`, ... in ascending
order, each with its bounds check; what precedes a fault stays (R154, R155). -/

namespace Sys2Proof.Machine

/-- The alternative of R14 in which `FX1E` writes `VF <- 1` when `I + VX > 0xFFF`. The decided value writes nothing. -/
def State.indexFlag (s : State) (setsVF : Bool) (x : Reg) : State :=
  if setsVF && decide (0xFFF < s.i.toNat + (s.reg x).toNat) then s.setFlag true else s

/-- `FX1E`, `ADD I, VX` (R150): modulo 65536, `VF` is not written. -/
def execAddI (x : Reg) (s : State) : Host.Outcome State Fault Refusal :=
  commit (.done ((s.indexFlag Quirks.decided.addISetsVF x).setI (s.i + zextByte (s.reg x))) .next)

/-- `FX29`, `LD F, VX` (R151): no fault for a register of 16 or more. -/
def execLdF (x : Reg) (s : State) : Host.Outcome State Fault Refusal :=
  commit (.done (s.setI (fontAddr s (fontDigit Quirks.decided.fontIndexMask (s.reg x)))) .next)

/-- Write one decimal digit of `b` at its offset (R153). -/
def storeDigit (b : Byte) (k : Nat) (s : State) : Except Fault State := memWrite s (effAddr s k) (bcdDigit b k)

/-- `FX33`, `LD B, VX` (R153): hundreds, tens, units. -/
def execLdB (x : Reg) (s : State) : Host.Outcome State Fault Refusal :=
  commit (endLoop (forEach (storeDigit (s.reg x)) (List.range 3) s) id .next)

/-- Store `V[k]` at `I + k` (R156). -/
def storeReg (k : Nat) (s : State) : Except Fault State := memWrite s (effAddr s k) (s.reg (loopReg k))

/-- Load `V[k]` from `I + k` (R157). -/
def loadReg (k : Nat) (s : State) : Except Fault State :=
  match memRead s (effAddr s k) with
  | .ok b => .ok (s.setReg (loopReg k) b)
  | .error f => .error f

/-- After a dump or load: `I` is not changed; the alternatives of R14 add to it. -/
def State.stepIndex (q : IndexStep) (x : Reg) (s : State) : State :=
  match q with
  | .none => s
  | .x => s.setI (s.i + indexStep .x x)
  | .xPlus1 => s.setI (s.i + indexStep .xPlus1 x)

/-- `FX55`, `LD [I], VX` (R156): `V0` to `VX`, inclusive. -/
def execStoreRegs (x : Reg) (s : State) : Host.Outcome State Fault Refusal :=
  commit (endLoop (forEach storeReg (List.range (x.val + 1)) s) (State.stepIndex Quirks.decided.loadStoreIncI x) .next)

/-- `FX65`, `LD VX, [I]` (R157): `V0` to `VX`, inclusive. -/
def execLoadRegs (x : Reg) (s : State) : Host.Outcome State Fault Refusal :=
  commit (endLoop (forEach loadReg (List.range (x.val + 1)) s) (State.stepIndex Quirks.decided.loadStoreIncI x) .next)

end Sys2Proof.Machine
end

