-- ==== Sys2Proof/Machine/Keys.lean ====
section
/-! DEFINITION. Key instructions (45_keys_timers_random.md section 1). The keys are the sample of the current CpuCycle. -/

namespace Sys2Proof.Machine

/-- A skip on the key that `VX` names: `VX >= 16` faults and nothing has changed; the register is not masked (R190). -/
def keySkip (s : State) (x : Reg) (skipWhenDown : Bool) : Effect :=
  if (s.reg x).toNat < Config.numKeys then .done s (skipIf (s.keyDown (s.reg x).toNat == skipWhenDown))
  else .raised s (.keyIndexOutOfRange (s.reg x))

/-- `EX9E`, `SKP VX` (R190). -/
def execSkp (x : Reg) (s : State) : Host.Outcome State Fault Refusal := commit (keySkip s x true)

/-- `EXA1`, `SKNP VX` (R191). -/
def execSknp (x : Reg) (s : State) : Host.Outcome State Fault Refusal := commit (keySkip s x false)

/-- `FX0A`, `LD VX, K` (R192): `Wait` while no key is held, else the held key's value and `Next`. -/
def execLdVxK (x : Reg) (s : State) : Host.Outcome State Fault Refusal :=
  match heldKey Quirks.decided.keyWait s with
  | none => commit (.done s .wait)
  | some k => commit (.done (s.setReg x (BitVec.ofNat 8 k)) .next)

end Sys2Proof.Machine
end

