-- ==== Sys2Proof/Machine/Random.lean ====
section
/-! DEFINITION. The random generator and its instruction (45_keys_timers_random.md sections 3 and 4). -/

namespace Sys2Proof.Machine

/-- The feedback bit of a generator state (R201). -/
def feedbackBit (r : Word) : Bool :=
  ((r.getLsbD 0 ^^ r.getLsbD 1) ^^ r.getLsbD 3) ^^ r.getLsbD 12

/-- The state after `NextBit()`: the feedback bit becomes bit 15 and old bit 0 is dropped (R201). -/
def nextRng (r : Word) : Word := (r >>> 1) ||| ((BitVec.ofBool (feedbackBit r)).setWidth 16 <<< 15)

/-- `n` calls of `NextBit()`, the bits dropped. -/
def advanceRng : Nat → Word → Word
  | 0, r => r
  | n + 1, r => advanceRng n (nextRng r)

/-- `n` turns of `GetByte`'s loop: the byte so far and the generator state (R202). -/
def collectBits : Nat → Byte → Word → Byte × Word
  | 0, acc, r => (acc, r)
  | n + 1, acc, r => collectBits n ((acc <<< 1) ||| (BitVec.ofBool (feedbackBit r)).setWidth 8) (nextRng r)

/-- `GetByte()`: eight bits, the first one the most significant (R202). -/
def getByte (r : Word) : Byte × Word := collectBits 8 0 r

/-- `Seed(value)`: 0 is rejected, else 16 bits are discarded (R203). -/
def seedRng (value : Word) : Except Fault Word :=
  if value = 0 then .error .zeroSeed else .ok (advanceRng 16 value)

/-- `CXNN`, `RND VX, NN` (R196): the generator advances by 8 steps whatever `NN` is. -/
def execRnd (x : Reg) (nn : Byte) (s : State) : Host.Outcome State Fault Refusal :=
  let r := getByte s.rng
  commit (.done ((s.setRng r.2).setReg x (r.1 &&& nn)) .next)

end Sys2Proof.Machine
end

