-- ==== Sys2Proof/Machine/Timers.lean ====
section
/-! DEFINITION. The two timers and their instructions (45_keys_timers_random.md section 2, 10_state.md R31 to R33). -/

namespace Sys2Proof.Machine

/-- One count-down, saturating at 0 (R33). -/
def countDown (t : Byte) : Byte := if t = 0 then 0 else t - 1

/-- `TimerTick` (R33): both timers at once, and nothing while a fault is latched. -/
def timerTick (s : State) : State :=
  match s.fault with
  | none => (s.setDt (countDown s.dt)).setSt (countDown s.st)
  | some _ => s

/-- `FX07`, `LD VX, DT` (R193). -/
def execLdVxDt (x : Reg) (s : State) : Host.Outcome State Fault Refusal := commit (.done (s.setReg x s.dt) .next)

/-- `FX15`, `LD DT, VX` (R194). -/
def execLdDtVx (x : Reg) (s : State) : Host.Outcome State Fault Refusal := commit (.done (s.setDt (s.reg x)) .next)

/-- `FX18`, `LD ST, VX` (R195). -/
def execLdStVx (x : Reg) (s : State) : Host.Outcome State Fault Refusal := commit (.done (s.setSt (s.reg x)) .next)

end Sys2Proof.Machine
end

