-- ==== Sys2Proof/Machine/Transfer.lean ====
section
/-! DEFINITION. Register transfer instructions (41_register_transfer.md). -/

namespace Sys2Proof.Machine

/-- `6XNN`, `LD VX, NN` (R120). -/
def execLdImm (x : Reg) (nn : Byte) (s : State) : Host.Outcome State Fault Refusal :=
  commit (.done (s.setReg x nn) .next)

/-- `8XY0`, `LD VX, VY` (R121). -/
def execLdReg (x y : Reg) (s : State) : Host.Outcome State Fault Refusal :=
  commit (.done (s.setReg x (s.reg y)) .next)

/-- `ANNN`, `LD I, NNN` (R122). -/
def execLdI (nnn : BitVec 12) (s : State) : Host.Outcome State Fault Refusal :=
  commit (.done (s.setI (zextNNN nnn)) .next)

end Sys2Proof.Machine
end

