-- ==== Sys2Proof/Machine/Events.lean ====
section
/-! DEFINITION. The Reset event (R260), and what the environment can put in front of the core. -/

namespace Sys2Proof.Machine

/-- Write a byte string from an address up; the first write out of range raises and what precedes it stays (R260, R263). -/
def loadBytes : List Byte → Nat → State → State × Option Fault
  | [], _, s => (s, none)
  | b :: bs, a, s =>
    match memWrite s a b with
    | .ok s' => loadBytes bs (a + 1) s'
    | .error f => (s, some f)

/-- The first four lines of Reset: no fault, memory and registers zero, the display clear (R260). -/
def zeroed (s : State) : State :=
  { s with
    fault := none, mem := [], v := Vector.replicate 16 0, i := 0, sp := 0, stack := Vector.replicate 16 0,
    dt := 0, st := 0, pix := blankGrid }

/-- The last lines of Reset: `PC`, the font base register, the generator (R260). A zero seed is latched (R227, R263). -/
def startCore (a : ResetArgs) (s : State) : State :=
  let s' := (s.setPc a.pcReset).setFontBase a.fontBase
  match seedRng a.seed with
  | .ok r => s'.setRng r
  | .error f => s'.raise f

/-- The second load of Reset and what follows it (R260). A ROM that does not fit fails also where it is empty and writes
nothing: R263 asks only for `PC_RESET + L > 0x1000`. The address reported there is the model's (DESIGN CHOICE, log 12,
unsafe). -/
def loadRom (a : ResetArgs) (s : State) : State :=
  match loadBytes a.rom a.pcReset.toNat s with
  | (s', some f) => s'.raise f
  | (s', none) => if a.romFits then startCore a s' else s'.raise (.addressOutOfRange a.pcReset)

/-- The Reset event (R260), the only thing that clears the latch (R233). A failed load stops it where it stands, so `PC`,
the font base and `RNG` keep their old values (R16, R263; DEDUCED, log 12, unsafe). Keys and schedule are inputs and stay
(log 20). -/
def resetEvent (a : ResetArgs) (s : State) : State :=
  match loadBytes Config.font a.fontBase.toNat (zeroed s) with
  | (s', some f) => s'.raise f
  | (s', none) => loadRom a s'

end Sys2Proof.Machine
end

