-- ==== Sys2Proof/Machine/Cycle.lean ====
section
/-! DEFINITION. The CpuCycle event (R270), one event of the schedule (R272), and placing an instruction where the next
step fetches. -/

namespace Sys2Proof.Machine

/-- `Fetch()`: the byte at `PC`, then the byte at `PC + 1`; high byte first (R54, R57). -/
def fetch (s : State) : Except Fault Word :=
  match memRead s s.pc.toNat with
  | .error f => .error f
  | .ok hi =>
    match memRead s (s.pc.toNat + 1) with
    | .error f => .error f
    | .ok lo => .ok (joinBytes hi lo)

/-- A word outside the opcode map: `UnknownOpcode(op)`, nothing else changed (R81, R223). In the alternative of R14 the
words `0NNN` go on to the next instruction (R139). -/
def unknownWord (q : SysWords) (op : Word) (s : State) : Host.Outcome State Fault Refusal :=
  match q with
  | .illegal => commit (.raised s (.unknownOpcode op))
  | .nop => if fieldN3 op = 0 then commit (.done s .next) else commit (.raised s (.unknownOpcode op))

/-- Fetch, decode and execute one instruction, the checks in the order of R232. -/
def runInstruction (s : State) : Host.Outcome State Fault Refusal :=
  match fetch s with
  | .error f => commit (.raised s f)
  | .ok op =>
    match decode op with
    | .ok i => exec i s
    | .error _ => unknownWord Quirks.decided.sys0NNN op s

/-- `CpuCycle(keys_sample)` (R270): nothing at all while a fault is latched (R233), else the sample is taken and one
instruction runs. -/
def cpuCycle (sample : Word) (s : State) : Host.Outcome State Fault Refusal :=
  match s.fault with
  | some _ => .next s
  | none => runInstruction (s.setKeys sample)

/-- The environment's next event: the oldest of the schedule. With nothing scheduled it is a CpuCycle whose sample is the
one before (DESIGN CHOICE, log 6, unsafe: the spec leaves the order of events to the environment, R272). -/
def nextEvent (s : State) : Event × List Event :=
  match s.schedule with
  | [] => (.cpuCycle s.keys, [])
  | e :: es => (e, es)

/-- One event (R272): events are atomic and totally ordered. -/
def runEvent (e : Event) (s : State) : Host.Outcome State Fault Refusal :=
  match e with
  | .cpuCycle sample => cpuCycle sample s
  | .timerTick => .next (timerTick s)
  | .reset args => .next (resetEvent args s)

/-- Take the environment's next event. -/
def stepEvent (s : State) : Host.Outcome State Fault Refusal :=
  runEvent (nextEvent s).1 (s.setSchedule (nextEvent s).2)

/-- The schedule with a CpuCycle in front, if another event stands there. -/
def cycleFirst (s : State) : List Event :=
  match s.schedule with
  | [] => []
  | .cpuCycle k :: es => .cpuCycle k :: es
  | e :: es => .cpuCycle s.keys :: e :: es

/-- `PC` where both bytes of an instruction can be fetched: kept if they can, else `PC_RESET` (R57). -/
def fetchablePc (s : State) : Word := if s.pc.toNat + 1 < Config.memSize then s.pc else Config.resetArgs.pcReset

/-- The instruction word `w` placed where the next step fetches, with what that fetch needs: no latched fault, a CpuCycle
as the next event, a fetchable `PC` (log 17). -/
def placeWord (s : State) (w : Word) : State :=
  let pc := fetchablePc s
  let m := Memory.write (Memory.write s.mem pc.toNat (highByte w)) (pc.toNat + 1) (lowByte w)
  (((s.setPc pc).setMem m).setFault none).setSchedule (cycleFirst s)

end Sys2Proof.Machine
end

