-- ==== Sys2Proof/Machine/Step.lean ====
section
/-! DEFINITION. One step of the machine: one event. -/

namespace Sys2Proof.Machine

/-- One step is one event (R272): the oldest of the schedule, or a CpuCycle. -/
def step (s : State) : Host.Outcome State Fault Refusal := stepEvent s

/-- `s` with the instruction word `w` of the opcode table stored where `step` fetches its next instruction (log 17). -/
def State.withFetchWord (s : State) (nbits w : Nat) : State := placeWord s (tableWord nbits w)

end Sys2Proof.Machine
end

