-- ==== Sys2Proof/Safety.lean ====
section
/-! DEFINITION. The terms of the claims: what a safe run is, what an instruction leaves unchanged, the invariants, and
the tables of 10_state.md and 60_exceptions.md as functions of the instruction. -/

namespace Sys2Proof.Machine

/-! ### Safe runs (R233, R273) -/

/-- No fault is latched (R39). A faulted state is never a good final state (R233). -/
def Safe (s : State) : Prop := s.fault = none

/-- The machine is safe now and after each of the next `n` events. -/
def SafeFor : Nat → State → Prop
  | 0, s => Safe s
  | n + 1, s => Safe s ∧ ∃ t, step s = .next t ∧ SafeFor n t

/-- The program signals that it is done: a jump to its own address, with no fault (R273, R84). -/
def AtSelfJump (s : State) : Prop :=
  s.fault = none ∧ ∃ nnn, fetch s = .ok (encode (.jp nnn)) ∧ s.pc = zextNNN nnn

/-! ### What is left unchanged -/

/-- The parts of the state other than `PC`, row by row of 10_state.md section 1, and the inputs. -/
inductive Part where
  | regs
  | index
  | entries
  | sp
  | delay
  | sound
  | rng
  | fontBase
  | memory
  | display
  | fault
  | inputs
  deriving DecidableEq, Repr

/-- The part reads in `t` as in `s`. -/
def Keeps (s t : State) : Part → Prop
  | .regs => ∀ r, t.reg r = s.reg r
  | .index => t.i = s.i
  | .entries => ∀ k, t.stack.get k = s.stack.get k
  | .sp => t.sp = s.sp
  | .delay => t.dt = s.dt
  | .sound => t.st = s.st
  | .rng => t.rng = s.rng
  | .fontBase => t.fontBase = s.fontBase
  | .memory => ∀ a, t.byteAt a = s.byteAt a
  | .display => ∀ row col, t.pixel row col = s.pixel row col
  | .fault => t.fault = s.fault
  | .inputs => t.keys = s.keys ∧ t.schedule = s.schedule

/-- Every part outside `changed` reads in `t` as in `s`; `PC` may change. -/
def Frame (changed : List Part) (s t : State) : Prop := ∀ p, p ∉ changed → Keeps s t p

/-- Every general register outside `xs` is unchanged. -/
def RegsExcept (xs : List Reg) (s t : State) : Prop := ∀ r, r ∉ xs → t.reg r = s.reg r

/-- Every byte of memory outside the `len` bytes from `base` up is unchanged. -/
def BytesExcept (base len : Nat) (s t : State) : Prop :=
  ∀ a, a < base ∨ base + len ≤ a → t.byteAt a = s.byteAt a

/-- Register `x` receives `b`, `PC` goes to the next instruction, and nothing else changes. -/
def WritesReg (s t : State) (x : Reg) (b : Byte) : Prop :=
  t.reg x = b ∧ RegsExcept [x] s t ∧ t.pc = s.pc + 2 ∧ Frame [.regs] s t

/-- Register `x` receives `b` and then `VF` the flag `f`, so that with `x` being `VF` the flag stands (R100); `PC` goes to
the next instruction, and nothing else changes. -/
def WritesRegAndFlag (s t : State) (x : Reg) (b : Byte) (f : Bool) : Prop :=
  t.reg vf = (if f then 1 else 0) ∧ (x ≠ vf → t.reg x = b) ∧ RegsExcept [x, vf] s t ∧ t.pc = s.pc + 2 ∧
    Frame [.regs] s t

/-! ### Invariants -/

/-- The memory is in its canonical form, inside 0 to 0xFFF (R50). -/
def MemoryCanonical (s : State) : Prop := Memory.wf s.mem

/-- The generator is not in its fixed point (R34). -/
def RngNonzero (s : State) : Prop := s.rng ≠ 0

/-- The bound of R24: `PC` is at most 0x10FE and every return address in use at most 0x1000, given that every Reset still
to come has `PC_RESET <= 0x0FFF`. -/
def PcBounded (s : State) : Prop :=
  s.pc.toNat ≤ 0x10FE ∧ (∀ k : Fin 16, k.val < s.sp.val → (s.stack.get k).toNat ≤ 0x1000) ∧
    ∀ a, Event.reset a ∈ s.schedule → a.pcReset.toNat ≤ 0x0FFF

/-! ### The spec's tables -/

/-- The parts an instruction may write (the column "written by" of 10_state.md section 1; the latch by R229). -/
def writtenParts : Instr → List Part
  | .cls => [.display]
  | .ret => [.sp, .fault]
  | .jp _ => []
  | .call _ => [.entries, .sp, .fault]
  | .seImm _ _ => []
  | .sneImm _ _ => []
  | .seReg _ _ => []
  | .ldImm _ _ => [.regs]
  | .addImm _ _ => [.regs]
  | .ldReg _ _ => [.regs]
  | .orReg _ _ => [.regs]
  | .andReg _ _ => [.regs]
  | .xorReg _ _ => [.regs]
  | .addReg _ _ => [.regs]
  | .subReg _ _ => [.regs]
  | .shr _ _ => [.regs]
  | .subnReg _ _ => [.regs]
  | .shl _ _ => [.regs]
  | .sneReg _ _ => []
  | .ldI _ => [.index]
  | .jpV0 _ => []
  | .rnd _ _ => [.regs, .rng]
  | .drw _ _ _ => [.regs, .display, .fault]
  | .skp _ => [.fault]
  | .sknp _ => [.fault]
  | .ldVxDt _ => [.regs]
  | .ldVxK _ => [.regs]
  | .ldDtVx _ => [.delay]
  | .ldStVx _ => [.sound]
  | .addI _ => [.index]
  | .ldF _ => [.index]
  | .ldB _ => [.memory, .fault]
  | .storeRegs _ => [.memory, .fault]
  | .loadRegs _ => [.regs, .fault]

/-- The general registers an instruction writes (R21, column "writes"). -/
def writesReg : Instr → Reg → Bool
  | .ldImm x _, r => r == x
  | .addImm x _, r => r == x
  | .ldReg x _, r => r == x
  | .orReg x _, r => r == x
  | .andReg x _, r => r == x
  | .xorReg x _, r => r == x
  | .addReg x _, r => r == x || r == vf
  | .subReg x _, r => r == x || r == vf
  | .shr x _, r => r == x || r == vf
  | .subnReg x _, r => r == x || r == vf
  | .shl x _, r => r == x || r == vf
  | .rnd x _, r => r == x
  | .drw _ _ _, r => r == vf
  | .ldVxDt x, r => r == x
  | .ldVxK x, r => r == x
  | .loadRegs x, r => r ≤ x
  | .cls, _ | .ret, _ | .jp _, _ | .call _, _ | .seImm _ _, _ | .sneImm _ _, _ | .seReg _ _, _ | .sneReg _ _, _ => false
  | .ldI _, _ | .jpV0 _, _ | .skp _, _ | .sknp _, _ | .ldDtVx _, _ | .ldStVx _, _ | .addI _, _ | .ldF _, _ => false
  | .ldB _, _ | .storeRegs _, _ => false

/-- The general registers an instruction reads (R21, column "reads"). -/
def readsReg : Instr → Reg → Bool
  | .seImm x _, r => r == x
  | .sneImm x _, r => r == x
  | .seReg x y, r => r == x || r == y
  | .sneReg x y, r => r == x || r == y
  | .addImm x _, r => r == x
  | .ldReg _ y, r => r == y
  | .orReg x y, r => r == x || r == y
  | .andReg x y, r => r == x || r == y
  | .xorReg x y, r => r == x || r == y
  | .addReg x y, r => r == x || r == y
  | .subReg x y, r => r == x || r == y
  | .subnReg x y, r => r == x || r == y
  | .shr x _, r => r == x
  | .shl x _, r => r == x
  | .jpV0 _, r => r == 0
  | .drw x y _, r => r == x || r == y
  | .skp x, r => r == x
  | .sknp x, r => r == x
  | .ldDtVx x, r => r == x
  | .ldStVx x, r => r == x
  | .addI x, r => r == x
  | .ldF x, r => r == x
  | .ldB x, r => r == x
  | .storeRegs x, r => r ≤ x
  | .cls, _ | .ret, _ | .jp _, _ | .call _, _ | .ldImm _ _, _ | .ldI _, _ | .rnd _ _, _ => false
  | .ldVxDt _, _ | .ldVxK _, _ | .loadRegs _, _ => false

/-- The instructions that write `VF` as a flag (R22). -/
def writesFlag : Instr → Bool
  | .addReg _ _ | .subReg _ _ | .subnReg _ _ | .shr _ _ | .shl _ _ | .drw _ _ _ => true
  | .cls | .ret | .jp _ | .call _ | .seImm _ _ | .sneImm _ _ | .seReg _ _ | .ldImm _ _ | .addImm _ _ | .ldReg _ _ => false
  | .orReg _ _ | .andReg _ _ | .xorReg _ _ | .sneReg _ _ | .ldI _ | .jpV0 _ | .rnd _ _ | .skp _ | .sknp _ => false
  | .ldVxDt _ | .ldVxK _ | .ldDtVx _ | .ldStVx _ | .addI _ | .ldF _ | .ldB _ | .storeRegs _ | .loadRegs _ => false

/-- The return address on top of the stack, if there is one. -/
def topOfStack (s : State) : List Word := (s.stack.toList.take s.sp.val).getLast?.toList

/-- Where `PC` can go when an instruction completes (R25, R141). -/
def pcAfter (s : State) : Instr → List Word
  | .jp nnn => [zextNNN nnn]
  | .call nnn => [zextNNN nnn]
  | .jpV0 nnn => [zextNNN nnn + zextByte (s.reg 0)]
  | .ret => topOfStack s
  | .ldVxK _ => [s.pc, s.pc + 2]
  | .seImm _ _ | .sneImm _ _ | .seReg _ _ | .sneReg _ _ | .skp _ | .sknp _ => [s.pc + 2, s.pc + 4]
  | .cls | .ldImm _ _ | .addImm _ _ | .ldReg _ _ | .orReg _ _ | .andReg _ _ | .xorReg _ _ | .addReg _ _ => [s.pc + 2]
  | .subReg _ _ | .shr _ _ | .subnReg _ _ | .shl _ _ | .ldI _ | .rnd _ _ | .drw _ _ _ | .ldVxDt _ => [s.pc + 2]
  | .ldDtVx _ | .ldStVx _ | .addI _ | .ldF _ | .ldB _ | .storeRegs _ | .loadRegs _ => [s.pc + 2]

/-- The code (R221) of the one cause an instruction can raise at execute, if any (R229). -/
def executeCause : Instr → Option (BitVec 4)
  | .call _ => some 4
  | .ret => some 5
  | .skp _ => some 3
  | .sknp _ => some 3
  | .drw _ _ n => if n = 0 then none else some 1
  | .ldB _ => some 1
  | .storeRegs _ => some 1
  | .loadRegs _ => some 1
  | .cls | .jp _ | .seImm _ _ | .sneImm _ _ | .seReg _ _ | .ldImm _ _ | .addImm _ _ | .ldReg _ _ | .orReg _ _ => none
  | .andReg _ _ | .xorReg _ _ | .addReg _ _ | .subReg _ _ | .shr _ _ | .subnReg _ _ | .shl _ _ | .sneReg _ _ => none
  | .ldI _ | .jpV0 _ | .rnd _ _ | .ldVxDt _ | .ldVxK _ | .ldDtVx _ | .ldStVx _ | .addI _ | .ldF _ => none

/-- The illegal words, group by group (R81). -/
def inIllegalGroup (op : Word) : Prop :=
  (fieldN3 op = 0x0 ∧ fieldNNN op ≠ 0x0E0 ∧ fieldNNN op ≠ 0x0EE) ∨
  (fieldN3 op = 0x5 ∧ fieldN op ≠ 0) ∨
  (fieldN3 op = 0x8 ∧ fieldN op ∈ [0x8#4, 0x9#4, 0xA#4, 0xB#4, 0xC#4, 0xD#4, 0xF#4]) ∨
  (fieldN3 op = 0x9 ∧ fieldN op ≠ 0) ∨
  (fieldN3 op = 0xE ∧ fieldNN op ∉ [0x9E#8, 0xA1#8]) ∨
  (fieldN3 op = 0xF ∧ fieldNN op ∉ [0x07#8, 0x0A#8, 0x15#8, 0x18#8, 0x1E#8, 0x29#8, 0x33#8, 0x55#8, 0x65#8])

/-! ### What a sprite is (R172, R176) -/

/-- The bit of the sprite byte `b`, drawn from column `x`, that meets column `col`: bit `7 - k` where `k` is how far `col`
lies to the right of `x`, modulo 64; none where that is 8 or more (R172). -/
def spriteBit (x : Nat) (b : Byte) (col : Fin 64) : Bool :=
  let k := (col.val + 64 - x % 64) % 64
  k < 8 && b.getLsbD (7 - k)

/-- The bit that the first `n` rows of the sprite at `I`, drawn at column `V[x]` and row `V[y]`, put on a pixel (R176):
row `k` of the sprite is the byte at `I + k` and meets display row `(V[y] + k) mod 32`. -/
def spriteAt (s : State) (x y : Reg) (n : Nat) (row : Fin 32) (col : Fin 64) : Bool :=
  let k := (row.val + 32 - (s.reg y).toNat % 32) % 32
  k < n && spriteBit (s.reg x).toNat (s.byteAt (effAddr s k)) col

end Sys2Proof.Machine
end

