-- ==== Sys2Proof/Certificates/Slice0/Obligations.lean ====
section
/-! DEFINITION. The statements for the provers, one definition each; OBLIGATIONS.json lists them in this order.
The encodings that the `decode` clauses name are those of R75, which the spec takes from general knowledge but for the
words of R76 (log 16). A docstring that names a decision D<n> says that the clause is the spec's own choice. -/

open Sys2Proof Sys2Proof.Machine

/-! ### Encoding (30_encoding.md) -/

/-- The three words the document shows (R76), and words of every family as 95_test_vectors.md section 2.1 lists them,
decode to the instructions they stand for. -/
def Obligations.ListedWordsDecode : Prop :=
  decode 0x6005 = .ok (.ldImm 0 0x05) ∧ decode 0x7003 = .ok (.addImm 0 0x03) ∧ decode 0x00E0 = .ok .cls ∧
  decode 0x00EE = .ok .ret ∧ decode 0x1ABC = .ok (.jp 0xABC) ∧ decode 0x2FFF = .ok (.call 0xFFF) ∧
  decode 0x3A7F = .ok (.seImm 0xA 0x7F) ∧ decode 0x5AB0 = .ok (.seReg 0xA 0xB) ∧ decode 0x8120 = .ok (.ldReg 1 2) ∧
  decode 0x8AB6 = .ok (.shr 0xA 0xB) ∧ decode 0xA123 = .ok (.ldI 0x123) ∧ decode 0xC50F = .ok (.rnd 5 0x0F) ∧
  decode 0xDAB5 = .ok (.drw 0xA 0xB 5) ∧ decode 0xE19E = .ok (.skp 1) ∧ decode 0xF30A = .ok (.ldVxK 3) ∧
  decode 0xFE65 = .ok (.loadRegs 0xE)

/-- Decoding the word of an instruction gives the instruction back, every operand at every value its type admits; from
bytes, high byte first, with whatever follows left over (R54, R72, R74, R75). -/
def Obligations.DecodeInvertsEncode : Prop :=
  ∀ i : Instr, decode (encode i) = .ok i ∧ ∀ rest, decodeBytes (encodeBytes i ++ rest) = .ok (i, rest)

/-- A word that decodes is the word of the instruction it decodes to: no bit of a legal word is dropped (R74, R75). -/
def Obligations.EncodeInvertsDecode : Prop := ∀ (op : Word) (i : Instr), decode op = .ok i → encode i = op

/-- The opcode map (R75): it has 34 rows, a word selects a row exactly when it decodes to an instruction of that row,
and no word selects two rows. -/
def Obligations.DecoderFollowsOpcodeMap : Prop :=
  opcodeTable.length = 34 ∧
  (∀ (op : Word) (r : OpRow), r ∈ opcodeTable → (op &&& r.mask = r.code ↔ ∃ i, i.row = r ∧ decode op = .ok i)) ∧
  opcodeTable.Pairwise fun r q => ∀ op : Word, ¬(op &&& r.mask = r.code ∧ op &&& q.mask = q.code)

/-- The illegal words (R81): decoding is refused, with the word as the reason, exactly on the six listed groups. -/
def Obligations.IllegalWordsAreTheListedGroups : Prop :=
  ∀ op : Word, decode op = .error (.unknownOpcode op) ↔ inIllegalGroup op

/-! ### The step (70_reset_and_hazards.md, 60_exceptions.md) -/

/-- The CpuCycle event (R270): with a fault latched it does nothing (decision D24; that the key sample is not taken
either is the model's inference, log 9); else it takes the key sample, reads the byte at `PC`, then the byte at `PC + 1`
(this order is decision D24, R54), decodes the word they make, high byte first, and runs the decoded instruction; the
first check that fails raises its cause and nothing more happens. -/
def Obligations.StepRunsDecodedInstruction : Prop :=
  ∀ (s : State) (k : Word) (es : List Event), s.schedule = .cpuCycle k :: es →
    (s.fault ≠ none → step s = .next (s.setSchedule es)) ∧
    (s.fault = none →
      (∀ f, memRead s s.pc.toNat = .error f → step s = .next (((s.setSchedule es).setKeys k).raise f)) ∧
      (∀ hi f, memRead s s.pc.toNat = .ok hi → memRead s (s.pc.toNat + 1) = .error f →
        step s = .next (((s.setSchedule es).setKeys k).raise f)) ∧
      ∀ hi lo, memRead s s.pc.toNat = .ok hi → memRead s (s.pc.toNat + 1) = .ok lo →
        (∀ i, decode (joinBytes hi lo) = .ok i → step s = exec i ((s.setSchedule es).setKeys k)) ∧
        ∀ e, decode (joinBytes hi lo) = .error e →
          step s = .next (((s.setSchedule es).setKeys k).raise (.unknownOpcode (joinBytes hi lo))))

/-- With nothing scheduled a step is a CpuCycle whose key sample is the one before: the model's choice (log 6). -/
def Obligations.IdleStepIsCpuCycle : Prop :=
  ∀ s : State, s.schedule = [] → step s = step (s.setSchedule [.cpuCycle s.keys])

/-- Fetch at the top of memory (R57, which derives it from R52 and R54): `PC = 0x0FFF` raises
`AddressOutOfRange(0x1000)`, `PC >= 0x1000` raises `AddressOutOfRange(PC)`; nothing else changes, `PC` included. Below
that a fetch succeeds, and two zero bytes are the illegal word 0x0000. -/
def Obligations.FetchAtTopOfMemoryFaults : Prop :=
  ∀ (s : State) (k : Word) (es : List Event), s.fault = none → s.schedule = .cpuCycle k :: es →
    (s.pc = 0x0FFF → step s = .next (((s.setSchedule es).setKeys k).raise (.addressOutOfRange 0x1000))) ∧
    (0x1000 ≤ s.pc.toNat → step s = .next (((s.setSchedule es).setKeys k).raise (.addressOutOfRange s.pc))) ∧
    (s.pc.toNat ≤ 0x0FFE → ∃ op, fetch s = .ok op) ∧
    (s.pc.toNat ≤ 0x0FFE → s.byteAt s.pc.toNat = 0 → s.byteAt (s.pc.toNat + 1) = 0 →
      step s = .next (((s.setSchedule es).setKeys k).raise (.unknownOpcode 0x0000)))

/-- An illegal word (R223): fetched at `PC`, it latches `UnknownOpcode` with the whole word, and nothing else changes.
Which words are illegal (R81) is the spec's own choice, decisions D8 and D9 (log 16). -/
def Obligations.IllegalWordLatchesUnknownOpcode : Prop :=
  ∀ (s : State) (k : Word) (es : List Event), s.fault = none → s.schedule = .cpuCycle k :: es →
    s.pc.toNat ≤ 0x0FFE → inIllegalGroup (joinBytes (s.byteAt s.pc.toNat) (s.byteAt (s.pc.toNat + 1))) →
    step s = .next (((s.setSchedule es).setKeys k).raise
      (.unknownOpcode (joinBytes (s.byteAt s.pc.toNat) (s.byteAt (s.pc.toNat + 1)))))

/-- A faulted core is frozen (R233, decision D24): over any number of CpuCycles and TimerTicks it only consumes
events; a Reset with good arguments clears the latch. -/
def Obligations.FaultedCoreIsFrozenUntilReset : Prop :=
  (∀ (n : Nat) (s : State), s.fault ≠ none → (∀ a, Event.reset a ∉ s.schedule) →
    Sys2Proof.core.run n s = .next (s.setSchedule (s.schedule.drop n))) ∧
  ∀ (s : State) (a : ResetArgs) (es : List Event), s.fault ≠ none → s.schedule = .reset a :: es → a.wellFormed = true →
    ∃ t, step s = .next t ∧ t.fault = none ∧ t.schedule = es

/-- The codes and info values of the causes (R221; the codes are decision D25), as the fault port shows them. -/
def Obligations.FaultPortShowsCodeAndInfo : Prop :=
  ∀ (s : State) (w : Word) (b : Byte),
    (s.raise (.addressOutOfRange w)).faultPort = some (1, w) ∧
    (s.raise (.unknownOpcode w)).faultPort = some (2, w) ∧
    (s.raise (.keyIndexOutOfRange b)).faultPort = some (3, b.setWidth 16) ∧
    (s.raise .stackOverflow).faultPort = some (4, 0) ∧
    (s.raise .stackUnderflow).faultPort = some (5, 0) ∧
    (s.raise .zeroSeed).faultPort = some (6, 0) ∧
    (s.raise .invalidDisplayDimensions).faultPort = some (7, 0) ∧
    (s.raise .invalidKeyVectorLength).faultPort = some (8, 0) ∧
    (s.setFault none).faultPort = none

/-- `TimerTick` (R33): with no fault latched each timer goes down by one and stops at 0, and nothing else changes but
the event taken; after as many ticks as its value, and any more, a timer reads 0; with a fault latched the timers stay
(decision D24). -/
def Obligations.TimerTickCountsBothTimersDown : Prop :=
  (∀ (s : State) (es : List Event), s.schedule = .timerTick :: es → s.fault = none →
    ∃ t, step s = .next t ∧ t.dt.toNat = s.dt.toNat - 1 ∧ t.st.toNat = s.st.toNat - 1 ∧ t.pc = s.pc ∧ t.keys = s.keys ∧
      t.schedule = es ∧ Frame [.delay, .sound, .inputs] s t) ∧
  (∀ (s : State) (n : Nat), s.fault = none →
    (s.dt.toNat ≤ n → (timerTick^[n] s).dt = 0) ∧ (s.st.toNat ≤ n → (timerTick^[n] s).st = 0)) ∧
  ∀ (s : State) (es : List Event), s.schedule = .timerTick :: es → s.fault ≠ none → step s = .next (s.setSchedule es)

/-- The step always answers a next state: no event stops the model (R230: a fault is a latched cause, log 8). -/
def Obligations.StepAnswersNextState : Prop := ∀ s : State, ∃ t, step s = .next t

/-- The end of a run (R273): at a jump to its own address with no fault, a CpuCycle leaves everything as it is but the
inputs. -/
def Obligations.SelfJumpChangesNothing : Prop :=
  ∀ (s : State) (k : Word) (es : List Event), AtSelfJump s → s.schedule = .cpuCycle k :: es →
    step s = .next ((s.setSchedule es).setKeys k) ∧ AtSelfJump ((s.setSchedule es).setKeys k)

/-! ### Reset (R42, R260 to R263) -/

/-- A Reset with good arguments leaves the stated values (R42) and the stated memory image (R261), in every state it
arrives in, a faulted one included. The zeros of the registers, the timers and the display are decision D5; keys and
the rest of the schedule stay (log 20). -/
def Obligations.ResetEstablishesStatedValues : Prop :=
  ∀ (s : State) (a : ResetArgs) (es : List Event), s.schedule = .reset a :: es → a.wellFormed = true →
    ∃ t, step s = .next t ∧ (∀ r, t.reg r = 0) ∧ t.i = 0 ∧ t.pc = a.pcReset ∧ t.sp = 0 ∧ (∀ k, t.stack.get k = 0) ∧
      t.dt = 0 ∧ t.st = 0 ∧ t.rng = nextRng^[16] a.seed ∧ t.fontBase = a.fontBase ∧
      (∀ row col, t.pixel row col = false) ∧ t.fault = none ∧ t.buzzer = false ∧ t.keys = s.keys ∧ t.schedule = es ∧
      ∀ c : Nat, t.byteAt c =
        if a.pcReset.toNat ≤ c ∧ c < a.pcReset.toNat + a.rom.length then a.rom.getD (c - a.pcReset.toNat) 0
        else if a.fontBase.toNat ≤ c ∧ c < a.fontBase.toNat + 80 then Config.font.getD (c - a.fontBase.toNat) 0
        else 0

/-- A Reset that fails (R263): a font or a ROM that does not fit, an empty ROM included, latches `AddressOutOfRange`, a
zero seed latches `ZeroSeed`. The spec does not state the reported address (N27): that it is the first load address
outside the memory is the model's inference from R53 and R260 (log 12), and for an empty ROM its choice (log 12). -/
def Obligations.ResetFailureLatchesCause : Prop :=
  ∀ (s : State) (a : ResetArgs) (es : List Event), s.schedule = .reset a :: es →
    (a.fontFits = false →
      ∃ t, step s = .next t ∧ t.fault = some (.addressOutOfRange (BitVec.ofNat 16 (max a.fontBase.toNat 0x1000)))) ∧
    (a.fontFits = true → a.romFits = false →
      ∃ t, step s = .next t ∧ t.fault = some (.addressOutOfRange (BitVec.ofNat 16 (max a.pcReset.toNat 0x1000)))) ∧
    (a.fontFits = true → a.romFits = true → a.seed = 0 → ∃ t, step s = .next t ∧ t.fault = some .zeroSeed)

/-- `State.reset` is what a Reset with the arguments this model chose (log 1, 2, 3, 17) makes of any state, but for
the inputs. -/
def Obligations.ResetStateComesFromResetEvent : Prop :=
  ∀ s : State, resetEvent Config.resetArgs s = (State.reset.setKeys s.keys).setSchedule s.schedule

/-! ### Invariants -/

/-- Every step keeps the memory in its canonical form, inside the address space. -/
def Obligations.StepKeepsMemoryCanonical : Prop :=
  ∀ s t : State, MemoryCanonical s → step s = .next t → MemoryCanonical t

/-- Every step keeps the generator out of its fixed point. R34 and R204 say it of a successful Reset and of every
`NextBit`; that a failed Reset leaves `RNG` as it was is the model's inference (log 12). -/
def Obligations.StepKeepsRngNonzero : Prop := ∀ s t : State, RngNonzero s → step s = .next t → RngNonzero t

/-- Every step keeps the bound of R24: `PC <= 0x10FE`, return addresses in use at most 0x1000. -/
def Obligations.StepKeepsPcBounded : Prop := ∀ s t : State, PcBounded s → step s = .next t → PcBounded t

/-- `State.reset` meets the three invariants. -/
def Obligations.ResetStateMeetsInvariants : Prop :=
  MemoryCanonical State.reset ∧ RngNonzero State.reset ∧ PcBounded State.reset

/-! ### Rules of the whole machine, over all instructions -/

/-- Each part of the state but `PC` is written only by the instructions that 10_state.md section 1 names for it: the
stack entries by `2NNN` alone, `SP` by `2NNN` and `00EE`. -/
def Obligations.PartsWrittenOnlyByNamedInstructions : Prop :=
  ∀ (i : Instr) (s t : State), exec i s = .next t → Frame (writtenParts i) s t

/-- The font base register is written by Reset and never otherwise (R35): no CpuCycle and no TimerTick changes it. -/
def Obligations.FontBaseWrittenByResetOnly : Prop :=
  ∀ s t : State, (∀ a es, s.schedule ≠ .reset a :: es) → step s = .next t → t.fontBase = s.fontBase

/-- An instruction writes and reads no general register but those R21 lists for it: it changes no register it is not
said to write, and what it leaves, apart from a register it is not said to read, does not depend on that register. -/
def Obligations.RegistersReadAndWrittenAsListed : Prop :=
  (∀ (i : Instr) (s t : State) (r : Reg), exec i s = .next t → writesReg i r = false → t.reg r = s.reg r) ∧
  ∀ (i : Instr) (s t t' : State) (r : Reg) (b : Byte), readsReg i r = false →
    exec i s = .next t → exec i (s.setReg r b) = .next t' →
    t'.pc = t.pc ∧ RegsExcept [r] t t' ∧ Frame [.regs] t t'

/-- `VF` as a flag (R22): an instruction that is no flag writer and does not name `VF` as a destination leaves `VF`; a
flag writer that completes leaves 0 or 1 in it. -/
def Obligations.FlagRegisterWrittenOnlyByFlagWriters : Prop :=
  (∀ (i : Instr) (s t : State), exec i s = .next t → writesFlag i = false → writesReg i vf = false →
    t.reg vf = s.reg vf) ∧
  ∀ (i : Instr) (s t : State), exec i s = .next t → writesFlag i = true → t.fault = none →
    t.reg vf = 0 ∨ t.reg vf = 1

/-- How `PC` moves (R25): an instruction that completes leaves `PC` where its directive puts it, one that raises
leaves it where it was. -/
def Obligations.PcMovesByDirective : Prop :=
  ∀ (i : Instr) (s t : State), s.fault = none → exec i s = .next t →
    (t.fault = none → t.pc ∈ pcAfter s i) ∧ (t.fault ≠ none → t.pc = s.pc)

/-- Which instruction can raise what at execute (R229). -/
def Obligations.InstructionsRaiseOnlyListedCauses : Prop :=
  ∀ (i : Instr) (s t : State) (f : Fault), s.fault = none → exec i s = .next t → t.fault = some f →
    executeCause i = some f.code

/-- Precision (R231, decision D24): a call, a return or a key skip that raises has changed nothing but the latch; a
BCD store, a dump, a load or a draw that raises has left `PC`, and `VF` in the case of a draw, as they were. -/
def Obligations.RaisingLeavesOnlyPartialEffects : Prop :=
  ∀ (i : Instr) (s t : State) (f : Fault), s.fault = none → exec i s = .next t → t.fault = some f →
    (executeCause i ≠ some 1 → t = s.raise f) ∧
    (executeCause i = some 1 → t.pc = s.pc ∧ (∀ x y n, i = .drw x y n → ∀ r, t.reg r = s.reg r))

/-- The keys matter only to the three key instructions (R197, R243), and no instruction reads the sound timer (R32,
R195): every other instruction does the same whatever the sample or the timer is. -/
def Obligations.KeysAndSoundTimerAreNotReadElsewhere : Prop :=
  (∀ (i : Instr) (s t : State) (k : Word), (∀ x, i ≠ .skp x) → (∀ x, i ≠ .sknp x) → (∀ x, i ≠ .ldVxK x) →
    exec i s = .next t → exec i (s.setKeys k) = .next (t.setKeys k)) ∧
  ∀ (i : Instr) (s t : State) (b : Byte), exec i s = .next t →
    exec i (s.setSt b) = .next (if Part.sound ∈ writtenParts i then t else t.setSt b)

/-! ### Memory and the call stack (R52, R53, R29, R30) -/

/-- A byte written inside the memory is read back and no other byte changes; from 0x1000 up both accesses raise
`AddressOutOfRange` (R52, R53). -/
def Obligations.WrittenByteIsReadBack : Prop :=
  ∀ (s : State) (a : Nat) (b : Byte),
    (a < 0x1000 → ∃ t, memWrite s a b = .ok t ∧ memRead t a = .ok b ∧ memRead s a = .ok (s.byteAt a) ∧ t.pc = s.pc ∧
      BytesExcept a 1 s t ∧ Frame [.memory] s t) ∧
    (0x1000 ≤ a → memWrite s a b = .error (.addressOutOfRange (BitVec.ofNat 16 a)) ∧
      memRead s a = .error (.addressOutOfRange (BitVec.ofNat 16 a)))

/-- The call stack (R29, R30; two causes by decision D26): from an empty stack 16 pushes succeed and the 17th raises
`StackOverflow`; a pop gives back the value pushed last; a pop of an empty stack raises `StackUnderflow`. -/
def Obligations.StackHoldsSixteenAddresses : Prop :=
  (∀ (s : State) (vs : List Word), s.sp = 0 → vs.length = 16 →
    ∃ t, vs.foldlM push s = .ok t ∧ t.sp.val = 16 ∧ ∀ v, push t v = .error .stackOverflow) ∧
  (∀ (s t : State) (v : Word), push s v = .ok t →
    ∃ u, pop t = .ok (v, u) ∧ u.sp = s.sp ∧ ∀ k : Fin 16, k.val < s.sp.val → u.stack.get k = s.stack.get k) ∧
  ∀ s : State, s.sp = 0 → pop s = .error .stackUnderflow

/-- The bytes that `FX55` stores are what a fetch reads next (R64): with `PC` at `I + k`, odd or even, a fetch gives `Vk`
and `Vk+1`, for every `k` for which both were stored. -/
def Obligations.StoredBytesAreFetched : Prop :=
  ∀ (s t : State) (x k k' : Reg), s.i.toNat + x.val < 0x1000 → exec (.storeRegs x) s = .next t →
    k'.val = k.val + 1 → k' ≤ x →
    fetch (t.setPc (s.i + BitVec.ofNat 16 k.val)) = .ok (joinBytes (s.reg k) (s.reg k'))

/-! ### Register transfer and arithmetic (R101 to R109, R120 to R122) -/

/-- `6XNN`, `8XY0` and `ANNN` (R120, R121, R122): `VX` receives the immediate or the other register's value, `I` the
immediate zero-extended, in every state; nothing else changes and `PC` goes to the next instruction. -/
def Obligations.LoadsWriteRegisterOrIndex : Prop :=
  ∀ (s : State) (x y : Reg) (nn : Byte) (nnn : BitVec 12),
    decode (formXNN 0x6 x nn) = .ok (.ldImm x nn) ∧ decode (formXYN 0x8 x y 0x0) = .ok (.ldReg x y) ∧
    decode (formNNN 0xA nnn) = .ok (.ldI nnn) ∧
    (∃ t, exec (.ldImm x nn) s = .next t ∧ WritesReg s t x nn) ∧
    (∃ t, exec (.ldReg x y) s = .next t ∧ WritesReg s t x (s.reg y)) ∧
    ∃ t, exec (.ldI nnn) s = .next t ∧ t.i.toNat = nnn.toNat ∧ t.pc = s.pc + 2 ∧ Frame [.index] s t

/-- `7XNN` (R101, decision D10): the sum modulo 256; no flag. -/
def Obligations.AddImmediateWraps : Prop :=
  ∀ (s : State) (x : Reg) (nn : Byte), decode (formXNN 0x7 x nn) = .ok (.addImm x nn) ∧
    ∃ t, exec (.addImm x nn) s = .next t ∧
      WritesReg s t x (BitVec.ofNat 8 (((s.reg x).toNat + nn.toNat) % 256))

/-- `8XY1`, `8XY2`, `8XY3` (R102, R103, R104, decision D11): bit by bit; `VF` is not written unless it is the
destination. -/
def Obligations.LogicIsBitwise : Prop :=
  ∀ (s : State) (x y : Reg),
    decode (formXYN 0x8 x y 0x1) = .ok (.orReg x y) ∧ decode (formXYN 0x8 x y 0x2) = .ok (.andReg x y) ∧
    decode (formXYN 0x8 x y 0x3) = .ok (.xorReg x y) ∧
    (∃ t b, exec (.orReg x y) s = .next t ∧ WritesReg s t x b ∧
      ∀ k < 8, b.getLsbD k = ((s.reg x).getLsbD k || (s.reg y).getLsbD k)) ∧
    (∃ t b, exec (.andReg x y) s = .next t ∧ WritesReg s t x b ∧
      ∀ k < 8, b.getLsbD k = ((s.reg x).getLsbD k && (s.reg y).getLsbD k)) ∧
    ∃ t b, exec (.xorReg x y) s = .next t ∧ WritesReg s t x b ∧
      ∀ k < 8, b.getLsbD k = ((s.reg x).getLsbD k ^^ (s.reg y).getLsbD k)

/-- `8XY4`, `8XY5`, `8XY7` (R105, R106, R108, decisions D12, D13, D15): the sum or difference modulo 256, and `VF` the
carry or the no-borrow of the old values, which stands also where `VF` is the destination. -/
def Obligations.AddSubtractWithFlag : Prop :=
  ∀ (s : State) (x y : Reg),
    decode (formXYN 0x8 x y 0x4) = .ok (.addReg x y) ∧ decode (formXYN 0x8 x y 0x5) = .ok (.subReg x y) ∧
    decode (formXYN 0x8 x y 0x7) = .ok (.subnReg x y) ∧
    (∃ t, exec (.addReg x y) s = .next t ∧
      WritesRegAndFlag s t x (BitVec.ofNat 8 (((s.reg x).toNat + (s.reg y).toNat) % 256))
        (decide ((s.reg x).toNat + (s.reg y).toNat > 255))) ∧
    (∃ t, exec (.subReg x y) s = .next t ∧
      WritesRegAndFlag s t x (BitVec.ofNat 8 (((s.reg x).toNat + 256 - (s.reg y).toNat) % 256))
        (decide ((s.reg x).toNat ≥ (s.reg y).toNat))) ∧
    ∃ t, exec (.subnReg x y) s = .next t ∧
      WritesRegAndFlag s t x (BitVec.ofNat 8 (((s.reg y).toNat + 256 - (s.reg x).toNat) % 256))
        (decide ((s.reg y).toNat ≥ (s.reg x).toNat))

/-- `8XY6`, `8XYE` (R107, R109, decision D14): `VX` shifted by one, whatever `Y` is, and `VF` the bit that left. -/
def Obligations.ShiftsByOneWithFlag : Prop :=
  ∀ (s : State) (x y : Reg),
    decode (formXYN 0x8 x y 0x6) = .ok (.shr x y) ∧ decode (formXYN 0x8 x y 0xE) = .ok (.shl x y) ∧
    (∃ t, exec (.shr x y) s = .next t ∧
      WritesRegAndFlag s t x (BitVec.ofNat 8 ((s.reg x).toNat / 2)) (decide ((s.reg x).toNat % 2 = 1))) ∧
    ∃ t, exec (.shl x y) s = .next t ∧
      WritesRegAndFlag s t x (BitVec.ofNat 8 ((s.reg x).toNat * 2 % 256)) (decide ((s.reg x).toNat ≥ 128))

/-! ### Control flow (R131 to R138) -/

/-- `1NNN` (R131): `PC` receives the immediate, zero-extended, and nothing else changes. -/
def Obligations.JumpSetsPc : Prop :=
  ∀ (s : State) (nnn : BitVec 12), decode (formNNN 0x1 nnn) = .ok (.jp nnn) ∧
    ∃ t, exec (.jp nnn) s = .next t ∧ t.pc.toNat = nnn.toNat ∧ Frame [] s t

/-- `BNNN` (R134, decisions D16, D6): `PC` receives the sum of the immediate and `V0`, not reduced modulo 4096, and
nothing else changes. -/
def Obligations.JumpWithOffsetAddsV0 : Prop :=
  ∀ (s : State) (nnn : BitVec 12), decode (formNNN 0xB nnn) = .ok (.jpV0 nnn) ∧
    ∃ t, exec (.jpV0 nnn) s = .next t ∧ t.pc.toNat = nnn.toNat + (s.reg 0).toNat ∧ Frame [] s t

/-- `2NNN` (R132, R225): with fewer than 16 entries in use the next instruction's address is pushed and `PC` receives
the immediate; with 16 `StackOverflow` is raised and nothing has changed. That the pushed entry is entry `SP` is decision
D27 (R29); that the entries above it stay is the model's choice (log 11). -/
def Obligations.CallPushesReturnAddress : Prop :=
  ∀ (s : State) (nnn : BitVec 12), decode (formNNN 0x2 nnn) = .ok (.call nnn) ∧
    (s.sp.val < 16 → ∃ t, exec (.call nnn) s = .next t ∧ t.pc.toNat = nnn.toNat ∧ t.sp.val = s.sp.val + 1 ∧
      (∀ k : Fin 16, t.stack.get k = if k.val = s.sp.val then s.pc + 2 else s.stack.get k) ∧ Frame [.entries, .sp] s t) ∧
    (s.sp.val = 16 → exec (.call nnn) s = .next (s.raise .stackOverflow))

/-- `00EE` (R133): with an entry in use `PC` receives the last one and `SP` goes down; with none `StackUnderflow` is
raised and nothing has changed. That the last one is entry `SP - 1` is decision D27 (R29, R30); that the popped entry
stays where it was is the model's choice (log 11; R28 lets a model do otherwise). -/
def Obligations.ReturnPopsReturnAddress : Prop :=
  ∀ s : State, decode 0x00EE = .ok .ret ∧
    (∀ k : Fin 16, s.sp.val = k.val + 1 → ∃ t, exec .ret s = .next t ∧ t.pc = s.stack.get k ∧ t.sp.val = k.val ∧
      Frame [.sp] s t) ∧
    (s.sp.val = 0 → exec .ret s = .next (s.raise .stackUnderflow))

/-- A call followed by a return comes back to the instruction after the call, with the stack in use as it was
(R132, R133). -/
def Obligations.ReturnUndoesCall : Prop :=
  ∀ (s : State) (nnn : BitVec 12), s.sp.val < 16 →
    ∃ t u, exec (.call nnn) s = .next t ∧ exec .ret t = .next u ∧ u.pc = s.pc + 2 ∧ u.sp = s.sp ∧
      (∀ k : Fin 16, k.val < s.sp.val → u.stack.get k = s.stack.get k) ∧ Frame [.entries, .sp] s u

/-- `3XNN`, `4XNN`, `5XY0`, `9XY0` (R135 to R138): `PC + 4` if the condition holds, else `PC + 2`; nothing else
changes. -/
def Obligations.RegisterSkipsCompare : Prop :=
  ∀ (s : State) (x y : Reg) (nn : Byte),
    decode (formXNN 0x3 x nn) = .ok (.seImm x nn) ∧ decode (formXNN 0x4 x nn) = .ok (.sneImm x nn) ∧
    decode (formXYN 0x5 x y 0x0) = .ok (.seReg x y) ∧ decode (formXYN 0x9 x y 0x0) = .ok (.sneReg x y) ∧
    (∃ t, exec (.seImm x nn) s = .next t ∧ t.pc = (if s.reg x = nn then s.pc + 4 else s.pc + 2) ∧ Frame [] s t) ∧
    (∃ t, exec (.sneImm x nn) s = .next t ∧ t.pc = (if s.reg x = nn then s.pc + 2 else s.pc + 4) ∧ Frame [] s t) ∧
    (∃ t, exec (.seReg x y) s = .next t ∧ t.pc = (if s.reg x = s.reg y then s.pc + 4 else s.pc + 2) ∧ Frame [] s t) ∧
    ∃ t, exec (.sneReg x y) s = .next t ∧ t.pc = (if s.reg x = s.reg y then s.pc + 2 else s.pc + 4) ∧ Frame [] s t

/-! ### Index register and memory (R150 to R157) -/

/-- `FX1E` and `FX29` (R150, R151, decisions D17, D18): `I + VX` and `FONT_BASE + 5 * VX` modulo 65536, for every
register value; no flag, no fault. -/
def Obligations.IndexArithmeticWraps : Prop :=
  ∀ (s : State) (x : Reg),
    decode (formX 0xF x 0x1E) = .ok (.addI x) ∧ decode (formX 0xF x 0x29) = .ok (.ldF x) ∧
    (∃ t, exec (.addI x) s = .next t ∧ t.i.toNat = (s.i.toNat + (s.reg x).toNat) % 65536 ∧ t.pc = s.pc + 2 ∧
      Frame [.index] s t) ∧
    ∃ t, exec (.ldF x) s = .next t ∧ t.i.toNat = (s.fontBase.toNat + 5 * (s.reg x).toNat) % 65536 ∧ t.pc = s.pc + 2 ∧
      Frame [.index] s t

/-- `FX33` (R153, decisions D20, D24): hundreds, tens and units at `I`, `I + 1`, `I + 2`; where one of the three is
out of range the digits before it are written, its address is latched and `PC` stays. Every other byte is unchanged.
-/
def Obligations.BcdStoresThreeDigits : Prop :=
  ∀ (s : State) (x : Reg), decode (formX 0xF x 0x33) = .ok (.ldB x) ∧
    ∃ t, exec (.ldB x) s = .next t ∧
      (s.i.toNat + 2 < 0x1000 →
        t.byteAt (effAddr s 0) = BitVec.ofNat 8 ((s.reg x).toNat / 100) ∧
        t.byteAt (effAddr s 1) = BitVec.ofNat 8 ((s.reg x).toNat / 10 % 10) ∧
        t.byteAt (effAddr s 2) = BitVec.ofNat 8 ((s.reg x).toNat % 10) ∧
        BytesExcept (effAddr s 0) 3 s t ∧ t.pc = s.pc + 2 ∧ Frame [.memory] s t) ∧
      (∀ n, s.i.toNat + 2 ≥ 0x1000 → n = 0x1000 - s.i.toNat →
        (0 < n → t.byteAt (effAddr s 0) = BitVec.ofNat 8 ((s.reg x).toNat / 100)) ∧
        (1 < n → t.byteAt (effAddr s 1) = BitVec.ofNat 8 ((s.reg x).toNat / 10 % 10)) ∧
        BytesExcept (effAddr s 0) n s t ∧ t.fault = some (.addressOutOfRange (BitVec.ofNat 16 (effAddr s n))) ∧
        t.pc = s.pc ∧ Frame [.memory, .fault] s t)

/-- `FX55` (R156, decisions D19, D24): `V0` to `VX` at `I`, `I + 1`, ..., `I` unchanged; where the range leaves the
memory the bytes before its end are written, the first address outside is latched and `PC` stays. Every other byte is
unchanged. -/
def Obligations.DumpStoresRegisters : Prop :=
  ∀ (s : State) (x : Reg), decode (formX 0xF x 0x55) = .ok (.storeRegs x) ∧
    ∃ t, exec (.storeRegs x) s = .next t ∧
      (s.i.toNat + x.val < 0x1000 →
        (∀ r : Reg, r ≤ x → t.byteAt (effAddr s r.val) = s.reg r) ∧ BytesExcept (effAddr s 0) (x.val + 1) s t ∧
        t.pc = s.pc + 2 ∧ Frame [.memory] s t) ∧
      (∀ n, s.i.toNat + x.val ≥ 0x1000 → n = 0x1000 - s.i.toNat →
        (∀ r : Reg, r.val < n → t.byteAt (effAddr s r.val) = s.reg r) ∧ BytesExcept (effAddr s 0) n s t ∧
        t.fault = some (.addressOutOfRange (BitVec.ofNat 16 (effAddr s n))) ∧ t.pc = s.pc ∧
        Frame [.memory, .fault] s t)

/-- `FX65` (R157, decisions D19, D24): `V0` to `VX` from `I`, `I + 1`, ..., the registers above `X` and `I` unchanged;
where the range leaves the memory the registers before its end are loaded, the first address outside is latched and
`PC` stays. -/
def Obligations.LoadFillsRegisters : Prop :=
  ∀ (s : State) (x : Reg), decode (formX 0xF x 0x65) = .ok (.loadRegs x) ∧
    ∃ t, exec (.loadRegs x) s = .next t ∧
      (s.i.toNat + x.val < 0x1000 →
        (∀ r : Reg, t.reg r = if r ≤ x then s.byteAt (effAddr s r.val) else s.reg r) ∧ t.pc = s.pc + 2 ∧
        Frame [.regs] s t) ∧
      (∀ n, s.i.toNat + x.val ≥ 0x1000 → n = 0x1000 - s.i.toNat →
        (∀ r : Reg, t.reg r = if r.val < n then s.byteAt (effAddr s r.val) else s.reg r) ∧
        t.fault = some (.addressOutOfRange (BitVec.ofNat 16 (effAddr s n))) ∧ t.pc = s.pc ∧ Frame [.regs, .fault] s t)

/-! ### Display (R170 to R177) -/

/-- `00E0` (R175): every pixel off, nothing else changes, `PC + 2`. -/
def Obligations.ClearTurnsEveryPixelOff : Prop :=
  ∀ s : State, decode 0x00E0 = .ok .cls ∧
    ∃ t, exec .cls s = .next t ∧ (∀ row col, t.pixel row col = false) ∧ t.pc = s.pc + 2 ∧ Frame [.display] s t

/-- `Draw(x, y, b)` (R172): each pixel of row `y mod 32` is XORed with the sprite bit that meets its column, every
pixel wrapping on its own; all other rows stay; the result is whether a set pixel met a set bit. -/
def Obligations.DrawXorsOneRow : Prop :=
  ∀ (x y : Nat) (b : Byte) (g : Grid),
    (∀ (row : Fin 32) (col : Fin 64), ((drawRow x y b g).1.get row).getLsbD col.val =
      ((g.get row).getLsbD col.val ^^ (decide (row.val = y % 32) && spriteBit x b col))) ∧
    ((drawRow x y b g).2 = true ↔
      ∃ (row : Fin 32) (col : Fin 64), row.val = y % 32 ∧ (g.get row).getLsbD col.val = true ∧ spriteBit x b col = true)

/-- The XOR law (R173): drawing the same row twice restores the display, and the second collision is true exactly if
the first draw set a pixel. -/
def Obligations.DrawingTwiceRestoresDisplay : Prop :=
  ∀ (x y : Nat) (b : Byte) (g : Grid),
    (drawRow x y b (drawRow x y b g).1).1 = g ∧
    ((drawRow x y b (drawRow x y b g).1).2 = true ↔
      ∃ (row : Fin 32) (col : Fin 64), (g.get row).getLsbD col.val = false ∧
        ((drawRow x y b g).1.get row).getLsbD col.val = true)

/-- What R173 derives from R172: a byte that is not 0 collides in at least one of two equal draws. -/
def Obligations.NonzeroByteCollidesInOneOfTwoDraws : Prop :=
  ∀ (x y : Nat) (b : Byte) (g : Grid), b ≠ 0 →
    (drawRow x y b g).2 = true ∨ (drawRow x y b (drawRow x y b g).1).2 = true

/-- `DXYN` (R176, R177, decision D23): with its bytes in range, or with no rows, every pixel is XORed with the sprite
bit that meets it (rows and columns wrap), `VF` is 1 if a set pixel met a set bit and 0 if none did, and nothing else
changes; with a byte out of range the rows before it stay drawn, its address is latched, and the registers and `PC`
stay. -/
def Obligations.DrawXorsSpriteAndReportsCollision : Prop :=
  ∀ (s : State) (x y : Reg) (n : BitVec 4), decode (formXYN 0xD x y n) = .ok (.drw x y n) ∧
    ∃ t, exec (.drw x y n) s = .next t ∧
      (n = 0 ∨ s.i.toNat + n.toNat ≤ 0x1000 →
        (∀ row col, t.pixel row col = (s.pixel row col ^^ spriteAt s x y n.toNat row col)) ∧
        ((t.reg vf = 1 ∧ ∃ row col, s.pixel row col = true ∧ spriteAt s x y n.toNat row col = true) ∨
          (t.reg vf = 0 ∧ ∀ row col, s.pixel row col = true → spriteAt s x y n.toNat row col = false)) ∧
        RegsExcept [vf] s t ∧ t.pc = s.pc + 2 ∧ Frame [.regs, .display] s t) ∧
      (∀ m, n ≠ 0 → s.i.toNat + n.toNat > 0x1000 → m = 0x1000 - s.i.toNat →
        (∀ row col, t.pixel row col = (s.pixel row col ^^ spriteAt s x y m row col)) ∧
        t.fault = some (.addressOutOfRange (BitVec.ofNat 16 (effAddr s m))) ∧ t.pc = s.pc ∧
        Frame [.display, .fault] s t)

/-! ### Keys, timers, random (R190 to R204) -/

/-- `EX9E` and `EXA1` (R190, R191): skip on the key that `VX` names, if `VX` is below 16; else the whole register
value is latched in `KeyIndexOutOfRange` and nothing has changed. -/
def Obligations.KeySkipsTestOneKey : Prop :=
  ∀ (s : State) (x : Reg),
    decode (formX 0xE x 0x9E) = .ok (.skp x) ∧ decode (formX 0xE x 0xA1) = .ok (.sknp x) ∧
    ((s.reg x).toNat < 16 →
      (∃ t, exec (.skp x) s = .next t ∧
        t.pc = (if s.keys.getLsbD (s.reg x).toNat then s.pc + 4 else s.pc + 2) ∧ Frame [] s t) ∧
      ∃ t, exec (.sknp x) s = .next t ∧
        t.pc = (if s.keys.getLsbD (s.reg x).toNat then s.pc + 2 else s.pc + 4) ∧ Frame [] s t) ∧
    (16 ≤ (s.reg x).toNat →
      exec (.skp x) s = .next (s.raise (.keyIndexOutOfRange (s.reg x))) ∧
      exec (.sknp x) s = .next (s.raise (.keyIndexOutOfRange (s.reg x))))

/-- `FX0A` (R192, decision D21): with no key held nothing changes, `PC` included; else `VX` receives the lowest held
key. -/
def Obligations.KeyWaitTakesLowestHeldKey : Prop :=
  ∀ (s : State) (x : Reg), decode (formX 0xF x 0x0A) = .ok (.ldVxK x) ∧
    (s.keys = 0 → exec (.ldVxK x) s = .next s) ∧
    (s.keys ≠ 0 → ∃ t k, exec (.ldVxK x) s = .next t ∧ k < 16 ∧ s.keys.getLsbD k = true ∧
      (∀ j < k, s.keys.getLsbD j = false) ∧ WritesReg s t x (BitVec.ofNat 8 k))

/-- `FX07`, `FX15`, `FX18` (R193, R194, R195): the timers are read and set; after `FX18` the buzzer sounds exactly if
`ST > 0`, a function of `ST` alone (R44, decision D29). -/
def Obligations.TimerTransfers : Prop :=
  ∀ (s : State) (x : Reg),
    decode (formX 0xF x 0x07) = .ok (.ldVxDt x) ∧ decode (formX 0xF x 0x15) = .ok (.ldDtVx x) ∧
    decode (formX 0xF x 0x18) = .ok (.ldStVx x) ∧
    (∃ t, exec (.ldVxDt x) s = .next t ∧ WritesReg s t x s.dt) ∧
    (∃ t, exec (.ldDtVx x) s = .next t ∧ t.dt = s.reg x ∧ t.pc = s.pc + 2 ∧ Frame [.delay] s t) ∧
    ∃ t, exec (.ldStVx x) s = .next t ∧ t.st = s.reg x ∧ (t.buzzer = true ↔ (s.reg x).toNat > 0) ∧ t.pc = s.pc + 2 ∧
      Frame [.sound] s t

/-- One step of the generator (R201): bits 14 to 0 are the old bits 15 to 1 and bit 15 is the exclusive-or of the old
bits 0, 1, 3 and 12. The reading of the document's formula is C4 of 90_conflicts.md and decision D22. -/
def Obligations.GeneratorShiftsInFeedbackBit : Prop :=
  ∀ r : Word, (∀ k < 15, (nextRng r).getLsbD k = r.getLsbD (k + 1)) ∧
    (nextRng r).getLsbD 15 = (((r.getLsbD 0 ^^ r.getLsbD 1) ^^ r.getLsbD 3) ^^ r.getLsbD 12)

/-- `GetByte()` (R202): eight steps, the bit of each (the new bit 15) in the byte from bit 7 down. -/
def Obligations.GetByteCollectsEightBits : Prop :=
  ∀ r : Word, (getByte r).2 = nextRng^[8] r ∧
    ∀ j < 8, (getByte r).1.getLsbD (7 - j) = (nextRng^[j + 1] r).getLsbD 15

/-- `Seed(value)` (R203): 0 raises `ZeroSeed`; any other value is the state, advanced by 16 steps. -/
def Obligations.SeedRejectsZeroAndDiscardsSixteenBits : Prop :=
  ∀ value : Word, (value = 0 → seedRng value = .error .zeroSeed) ∧
    (value ≠ 0 → seedRng value = .ok (nextRng^[16] value))

/-- The cycle of the generator (what R204 derives from R201): 0 is a fixed point, the step function is one-to-one, and
the 65535 states that are not 0 form one cycle: from state 1 they are all reached, and 65535 steps, and no fewer, lead
back. -/
def Obligations.GeneratorStatesFormOneCycle : Prop :=
  nextRng 0 = 0 ∧ Function.Injective nextRng ∧ (∀ r, r ≠ 0 → nextRng r ≠ 0) ∧
  nextRng^[65535] 1 = 1 ∧ (∀ n, 0 < n → n < 65535 → nextRng^[n] 1 ≠ 1) ∧ ∀ r, r ≠ 0 → ∃ n < 65535, nextRng^[n] 1 = r

/-- `CXNN` (R196; the AND with the immediate is decision D22): `VX` receives the next byte ANDed with the immediate,
and the generator advances by 8 steps, whatever the immediate is. The byte is the high byte of the register
afterwards, in reverse order (what R202 derives from R201). -/
def Obligations.RandomByteIsMasked : Prop :=
  ∀ (s : State) (x : Reg) (nn : Byte), decode (formXNN 0xC x nn) = .ok (.rnd x nn) ∧
    ∃ t, exec (.rnd x nn) s = .next t ∧ t.rng = nextRng^[8] s.rng ∧
      (∀ j < 8, (t.reg x).getLsbD (7 - j) = ((nextRng^[j + 1] s.rng).getLsbD 15 && nn.getLsbD (7 - j))) ∧
      (∀ j < 8, (t.reg x).getLsbD j = (t.rng.getLsbD (15 - j) && nn.getLsbD j)) ∧
      RegsExcept [x] s t ∧ t.pc = s.pc + 2 ∧ Frame [.regs, .rng] s t
end

