-- ==== Sys2Proof/Laws/Decode.lean ====
section
/-! SUPPORT. The fields of each instruction format read back (R71, R72), and the byte order read back (R54). -/

namespace Sys2Proof

@[simp] theorem regOfNibble_nibbleOfReg (r : Reg) : regOfNibble (nibbleOfReg r) = r := rfl

@[simp] theorem nibbleOfReg_regOfNibble (f : BitVec 4) : nibbleOfReg (regOfNibble f) = f := rfl

@[simp] theorem joinBytes_high_low (w : Word) : joinBytes (highByte w) (lowByte w) = w := by
  apply BitVec.eq_of_getLsbD_eq
  intro k hk
  simp only [joinBytes, highByte, lowByte, BitVec.getLsbD_append, BitVec.getLsbD_extractLsb']
  interval_cases k <;> simp

@[simp] theorem highByte_joinBytes (hi lo : Byte) : highByte (joinBytes hi lo) = hi := by
  apply BitVec.eq_of_getLsbD_eq
  intro k hk
  simp only [joinBytes, highByte, BitVec.getLsbD_append, BitVec.getLsbD_extractLsb']
  interval_cases k <;> simp

@[simp] theorem lowByte_joinBytes (hi lo : Byte) : lowByte (joinBytes hi lo) = lo := by
  apply BitVec.eq_of_getLsbD_eq
  intro k hk
  simp only [joinBytes, lowByte, BitVec.getLsbD_append, BitVec.getLsbD_extractLsb']
  interval_cases k <;> simp

/-! ### The formats, read back field by field -/

@[simp] theorem fieldN3_formNNN (n3 : BitVec 4) (nnn : BitVec 12) : fieldN3 (formNNN n3 nnn) = n3.toNat := by
  refine congrArg BitVec.toNat (BitVec.eq_of_getLsbD_eq fun k hk => ?_)
  simp only [formNNN, BitVec.getLsbD_append, BitVec.getLsbD_extractLsb']
  interval_cases k <;> simp

@[simp] theorem fieldNNN_formNNN (n3 : BitVec 4) (nnn : BitVec 12) : fieldNNN (formNNN n3 nnn) = nnn := by
  apply BitVec.eq_of_getLsbD_eq
  intro k hk
  simp only [fieldNNN, formNNN, BitVec.getLsbD_append, BitVec.getLsbD_extractLsb']
  interval_cases k <;> simp

@[simp] theorem fieldN3_formXNN (n3 : BitVec 4) (x : Reg) (nn : Byte) : fieldN3 (formXNN n3 x nn) = n3.toNat := by
  refine congrArg BitVec.toNat (BitVec.eq_of_getLsbD_eq fun k hk => ?_)
  simp only [formXNN, BitVec.getLsbD_append, BitVec.getLsbD_extractLsb']
  interval_cases k <;> simp

@[simp] theorem fieldX_formXNN (n3 : BitVec 4) (x : Reg) (nn : Byte) : fieldX (formXNN n3 x nn) = x := by
  refine (congrArg regOfNibble (BitVec.eq_of_getLsbD_eq fun k hk => ?_)).trans (regOfNibble_nibbleOfReg x)
  simp only [formXNN, BitVec.getLsbD_append, BitVec.getLsbD_extractLsb']
  interval_cases k <;> simp

@[simp] theorem fieldNN_formXNN (n3 : BitVec 4) (x : Reg) (nn : Byte) : fieldNN (formXNN n3 x nn) = nn := by
  apply BitVec.eq_of_getLsbD_eq
  intro k hk
  simp only [fieldNN, formXNN, BitVec.getLsbD_append, BitVec.getLsbD_extractLsb']
  interval_cases k <;> simp

/-- Format `X` has the shape of format `XNN`: its second byte is the function (R72). -/
theorem formX_eq (n3 : BitVec 4) (x : Reg) (fn : Byte) : formX n3 x fn = formXNN n3 x fn := rfl

@[simp] theorem fieldN3_formX (n3 : BitVec 4) (x : Reg) (fn : Byte) : fieldN3 (formX n3 x fn) = n3.toNat :=
  fieldN3_formXNN n3 x fn

@[simp] theorem fieldX_formX (n3 : BitVec 4) (x : Reg) (fn : Byte) : fieldX (formX n3 x fn) = x :=
  fieldX_formXNN n3 x fn

@[simp] theorem fieldNN_formX (n3 : BitVec 4) (x : Reg) (fn : Byte) : fieldNN (formX n3 x fn) = fn :=
  fieldNN_formXNN n3 x fn

@[simp] theorem fieldN3_formXYN (n3 : BitVec 4) (x y : Reg) (n : BitVec 4) :
    fieldN3 (formXYN n3 x y n) = n3.toNat := by
  refine congrArg BitVec.toNat (BitVec.eq_of_getLsbD_eq fun k hk => ?_)
  simp only [formXYN, BitVec.getLsbD_append, BitVec.getLsbD_extractLsb']
  interval_cases k <;> simp

@[simp] theorem fieldX_formXYN (n3 : BitVec 4) (x y : Reg) (n : BitVec 4) : fieldX (formXYN n3 x y n) = x := by
  refine (congrArg regOfNibble (BitVec.eq_of_getLsbD_eq fun k hk => ?_)).trans (regOfNibble_nibbleOfReg x)
  simp only [formXYN, BitVec.getLsbD_append, BitVec.getLsbD_extractLsb']
  interval_cases k <;> simp

@[simp] theorem fieldY_formXYN (n3 : BitVec 4) (x y : Reg) (n : BitVec 4) : fieldY (formXYN n3 x y n) = y := by
  refine (congrArg regOfNibble (BitVec.eq_of_getLsbD_eq fun k hk => ?_)).trans (regOfNibble_nibbleOfReg y)
  simp only [formXYN, BitVec.getLsbD_append, BitVec.getLsbD_extractLsb']
  interval_cases k <;> simp

@[simp] theorem fieldN_formXYN (n3 : BitVec 4) (x y : Reg) (n : BitVec 4) : fieldN (formXYN n3 x y n) = n := by
  apply BitVec.eq_of_getLsbD_eq
  intro k hk
  simp only [fieldN, formXYN, BitVec.getLsbD_append, BitVec.getLsbD_extractLsb']
  interval_cases k <;> simp

/-! ### The formats under the masks of R75 -/

theorem formNNN_masked (n3 : BitVec 4) (nnn : BitVec 12) : formNNN n3 nnn &&& 0xF000 = n3 ++ 0#12 := by
  apply BitVec.eq_of_getLsbD_eq
  intro k hk
  simp only [formNNN, BitVec.getLsbD_and, BitVec.getLsbD_append]
  interval_cases k <;> simp

theorem formXNN_masked (n3 : BitVec 4) (x : Reg) (nn : Byte) : formXNN n3 x nn &&& 0xF000 = n3 ++ 0#12 := by
  apply BitVec.eq_of_getLsbD_eq
  intro k hk
  simp only [formXNN, BitVec.getLsbD_and, BitVec.getLsbD_append]
  interval_cases k <;> simp

theorem formXYN_masked (n3 : BitVec 4) (x y : Reg) (n : BitVec 4) : formXYN n3 x y n &&& 0xF000 = n3 ++ 0#12 := by
  apply BitVec.eq_of_getLsbD_eq
  intro k hk
  simp only [formXYN, BitVec.getLsbD_and, BitVec.getLsbD_append]
  interval_cases k <;> simp

theorem formXYN_masked_low (n3 : BitVec 4) (x y : Reg) (n : BitVec 4) :
    formXYN n3 x y n &&& 0xF00F = n3 ++ 0#8 ++ n := by
  apply BitVec.eq_of_getLsbD_eq
  intro k hk
  simp only [formXYN, BitVec.getLsbD_and, BitVec.getLsbD_append]
  interval_cases k <;> simp

theorem formX_masked (n3 : BitVec 4) (x : Reg) (fn : Byte) : formX n3 x fn &&& 0xF0FF = n3 ++ 0#4 ++ fn := by
  apply BitVec.eq_of_getLsbD_eq
  intro k hk
  simp only [formX, BitVec.getLsbD_and, BitVec.getLsbD_append]
  interval_cases k <;> simp

end Sys2Proof
end

