-- ==== Sys2Proof/Laws/State.lean ====
section
/-! SUPPORT. One lemma for each field after each update of the state, so that no proof unfolds a record update. -/

namespace Sys2Proof.Machine.State

/-! #### `setReg` -/

theorem setReg_v (s : State) (x : Reg) (b : Byte) : (s.setReg x b).v = s.v.set x.val b x.isLt := rfl
@[simp] theorem setReg_i (s : State) (x : Reg) (b : Byte) : (s.setReg x b).i = s.i := rfl
@[simp] theorem setReg_pc (s : State) (x : Reg) (b : Byte) : (s.setReg x b).pc = s.pc := rfl
@[simp] theorem setReg_stack (s : State) (x : Reg) (b : Byte) : (s.setReg x b).stack = s.stack := rfl
@[simp] theorem setReg_sp (s : State) (x : Reg) (b : Byte) : (s.setReg x b).sp = s.sp := rfl
@[simp] theorem setReg_dt (s : State) (x : Reg) (b : Byte) : (s.setReg x b).dt = s.dt := rfl
@[simp] theorem setReg_st (s : State) (x : Reg) (b : Byte) : (s.setReg x b).st = s.st := rfl
@[simp] theorem setReg_rng (s : State) (x : Reg) (b : Byte) : (s.setReg x b).rng = s.rng := rfl
@[simp] theorem setReg_fontBase (s : State) (x : Reg) (b : Byte) : (s.setReg x b).fontBase = s.fontBase := rfl
@[simp] theorem setReg_mem (s : State) (x : Reg) (b : Byte) : (s.setReg x b).mem = s.mem := rfl
@[simp] theorem setReg_pix (s : State) (x : Reg) (b : Byte) : (s.setReg x b).pix = s.pix := rfl
@[simp] theorem setReg_fault (s : State) (x : Reg) (b : Byte) : (s.setReg x b).fault = s.fault := rfl
@[simp] theorem setReg_keys (s : State) (x : Reg) (b : Byte) : (s.setReg x b).keys = s.keys := rfl
@[simp] theorem setReg_schedule (s : State) (x : Reg) (b : Byte) : (s.setReg x b).schedule = s.schedule := rfl
@[simp] theorem setReg_byteAt (s : State) (x : Reg) (b : Byte) (n : Nat) : (s.setReg x b).byteAt n = s.byteAt n := rfl
@[simp] theorem setReg_pixel (s : State) (x : Reg) (b : Byte) (r : Fin 32) (c : Fin 64) : (s.setReg x b).pixel r c = s.pixel r c := rfl
@[simp] theorem setReg_keyDown (s : State) (x : Reg) (b : Byte) (n : Nat) : (s.setReg x b).keyDown n = s.keyDown n := rfl

/-! #### `setI` -/

@[simp] theorem setI_v (s : State) (a : Word) : (s.setI a).v = s.v := rfl
@[simp] theorem setI_i (s : State) (a : Word) : (s.setI a).i = a := rfl
@[simp] theorem setI_pc (s : State) (a : Word) : (s.setI a).pc = s.pc := rfl
@[simp] theorem setI_stack (s : State) (a : Word) : (s.setI a).stack = s.stack := rfl
@[simp] theorem setI_sp (s : State) (a : Word) : (s.setI a).sp = s.sp := rfl
@[simp] theorem setI_dt (s : State) (a : Word) : (s.setI a).dt = s.dt := rfl
@[simp] theorem setI_st (s : State) (a : Word) : (s.setI a).st = s.st := rfl
@[simp] theorem setI_rng (s : State) (a : Word) : (s.setI a).rng = s.rng := rfl
@[simp] theorem setI_fontBase (s : State) (a : Word) : (s.setI a).fontBase = s.fontBase := rfl
@[simp] theorem setI_mem (s : State) (a : Word) : (s.setI a).mem = s.mem := rfl
@[simp] theorem setI_pix (s : State) (a : Word) : (s.setI a).pix = s.pix := rfl
@[simp] theorem setI_fault (s : State) (a : Word) : (s.setI a).fault = s.fault := rfl
@[simp] theorem setI_keys (s : State) (a : Word) : (s.setI a).keys = s.keys := rfl
@[simp] theorem setI_schedule (s : State) (a : Word) : (s.setI a).schedule = s.schedule := rfl
@[simp] theorem setI_reg (s : State) (a : Word) (r : Reg) : (s.setI a).reg r = s.reg r := rfl
@[simp] theorem setI_byteAt (s : State) (a : Word) (n : Nat) : (s.setI a).byteAt n = s.byteAt n := rfl
@[simp] theorem setI_pixel (s : State) (a : Word) (r : Fin 32) (c : Fin 64) : (s.setI a).pixel r c = s.pixel r c := rfl
@[simp] theorem setI_keyDown (s : State) (a : Word) (n : Nat) : (s.setI a).keyDown n = s.keyDown n := rfl

/-! #### `setPc` -/

@[simp] theorem setPc_v (s : State) (a : Word) : (s.setPc a).v = s.v := rfl
@[simp] theorem setPc_i (s : State) (a : Word) : (s.setPc a).i = s.i := rfl
@[simp] theorem setPc_pc (s : State) (a : Word) : (s.setPc a).pc = a := rfl
@[simp] theorem setPc_stack (s : State) (a : Word) : (s.setPc a).stack = s.stack := rfl
@[simp] theorem setPc_sp (s : State) (a : Word) : (s.setPc a).sp = s.sp := rfl
@[simp] theorem setPc_dt (s : State) (a : Word) : (s.setPc a).dt = s.dt := rfl
@[simp] theorem setPc_st (s : State) (a : Word) : (s.setPc a).st = s.st := rfl
@[simp] theorem setPc_rng (s : State) (a : Word) : (s.setPc a).rng = s.rng := rfl
@[simp] theorem setPc_fontBase (s : State) (a : Word) : (s.setPc a).fontBase = s.fontBase := rfl
@[simp] theorem setPc_mem (s : State) (a : Word) : (s.setPc a).mem = s.mem := rfl
@[simp] theorem setPc_pix (s : State) (a : Word) : (s.setPc a).pix = s.pix := rfl
@[simp] theorem setPc_fault (s : State) (a : Word) : (s.setPc a).fault = s.fault := rfl
@[simp] theorem setPc_keys (s : State) (a : Word) : (s.setPc a).keys = s.keys := rfl
@[simp] theorem setPc_schedule (s : State) (a : Word) : (s.setPc a).schedule = s.schedule := rfl
@[simp] theorem setPc_reg (s : State) (a : Word) (r : Reg) : (s.setPc a).reg r = s.reg r := rfl
@[simp] theorem setPc_byteAt (s : State) (a : Word) (n : Nat) : (s.setPc a).byteAt n = s.byteAt n := rfl
@[simp] theorem setPc_pixel (s : State) (a : Word) (r : Fin 32) (c : Fin 64) : (s.setPc a).pixel r c = s.pixel r c := rfl
@[simp] theorem setPc_keyDown (s : State) (a : Word) (n : Nat) : (s.setPc a).keyDown n = s.keyDown n := rfl

/-! #### `setStack` -/

@[simp] theorem setStack_v (s : State) (e : Vector Word 16) (p : Fin 17) : (s.setStack e p).v = s.v := rfl
@[simp] theorem setStack_i (s : State) (e : Vector Word 16) (p : Fin 17) : (s.setStack e p).i = s.i := rfl
@[simp] theorem setStack_pc (s : State) (e : Vector Word 16) (p : Fin 17) : (s.setStack e p).pc = s.pc := rfl
@[simp] theorem setStack_stack (s : State) (e : Vector Word 16) (p : Fin 17) : (s.setStack e p).stack = e := rfl
@[simp] theorem setStack_sp (s : State) (e : Vector Word 16) (p : Fin 17) : (s.setStack e p).sp = p := rfl
@[simp] theorem setStack_dt (s : State) (e : Vector Word 16) (p : Fin 17) : (s.setStack e p).dt = s.dt := rfl
@[simp] theorem setStack_st (s : State) (e : Vector Word 16) (p : Fin 17) : (s.setStack e p).st = s.st := rfl
@[simp] theorem setStack_rng (s : State) (e : Vector Word 16) (p : Fin 17) : (s.setStack e p).rng = s.rng := rfl
@[simp] theorem setStack_fontBase (s : State) (e : Vector Word 16) (p : Fin 17) : (s.setStack e p).fontBase = s.fontBase := rfl
@[simp] theorem setStack_mem (s : State) (e : Vector Word 16) (p : Fin 17) : (s.setStack e p).mem = s.mem := rfl
@[simp] theorem setStack_pix (s : State) (e : Vector Word 16) (p : Fin 17) : (s.setStack e p).pix = s.pix := rfl
@[simp] theorem setStack_fault (s : State) (e : Vector Word 16) (p : Fin 17) : (s.setStack e p).fault = s.fault := rfl
@[simp] theorem setStack_keys (s : State) (e : Vector Word 16) (p : Fin 17) : (s.setStack e p).keys = s.keys := rfl
@[simp] theorem setStack_schedule (s : State) (e : Vector Word 16) (p : Fin 17) : (s.setStack e p).schedule = s.schedule := rfl
@[simp] theorem setStack_reg (s : State) (e : Vector Word 16) (p : Fin 17) (r : Reg) : (s.setStack e p).reg r = s.reg r := rfl
@[simp] theorem setStack_byteAt (s : State) (e : Vector Word 16) (p : Fin 17) (n : Nat) : (s.setStack e p).byteAt n = s.byteAt n := rfl
@[simp] theorem setStack_pixel (s : State) (e : Vector Word 16) (p : Fin 17) (r : Fin 32) (c : Fin 64) : (s.setStack e p).pixel r c = s.pixel r c := rfl
@[simp] theorem setStack_keyDown (s : State) (e : Vector Word 16) (p : Fin 17) (n : Nat) : (s.setStack e p).keyDown n = s.keyDown n := rfl

/-! #### `setDt` -/

@[simp] theorem setDt_v (s : State) (b : Byte) : (s.setDt b).v = s.v := rfl
@[simp] theorem setDt_i (s : State) (b : Byte) : (s.setDt b).i = s.i := rfl
@[simp] theorem setDt_pc (s : State) (b : Byte) : (s.setDt b).pc = s.pc := rfl
@[simp] theorem setDt_stack (s : State) (b : Byte) : (s.setDt b).stack = s.stack := rfl
@[simp] theorem setDt_sp (s : State) (b : Byte) : (s.setDt b).sp = s.sp := rfl
@[simp] theorem setDt_dt (s : State) (b : Byte) : (s.setDt b).dt = b := rfl
@[simp] theorem setDt_st (s : State) (b : Byte) : (s.setDt b).st = s.st := rfl
@[simp] theorem setDt_rng (s : State) (b : Byte) : (s.setDt b).rng = s.rng := rfl
@[simp] theorem setDt_fontBase (s : State) (b : Byte) : (s.setDt b).fontBase = s.fontBase := rfl
@[simp] theorem setDt_mem (s : State) (b : Byte) : (s.setDt b).mem = s.mem := rfl
@[simp] theorem setDt_pix (s : State) (b : Byte) : (s.setDt b).pix = s.pix := rfl
@[simp] theorem setDt_fault (s : State) (b : Byte) : (s.setDt b).fault = s.fault := rfl
@[simp] theorem setDt_keys (s : State) (b : Byte) : (s.setDt b).keys = s.keys := rfl
@[simp] theorem setDt_schedule (s : State) (b : Byte) : (s.setDt b).schedule = s.schedule := rfl
@[simp] theorem setDt_reg (s : State) (b : Byte) (r : Reg) : (s.setDt b).reg r = s.reg r := rfl
@[simp] theorem setDt_byteAt (s : State) (b : Byte) (n : Nat) : (s.setDt b).byteAt n = s.byteAt n := rfl
@[simp] theorem setDt_pixel (s : State) (b : Byte) (r : Fin 32) (c : Fin 64) : (s.setDt b).pixel r c = s.pixel r c := rfl
@[simp] theorem setDt_keyDown (s : State) (b : Byte) (n : Nat) : (s.setDt b).keyDown n = s.keyDown n := rfl

/-! #### `setSt` -/

@[simp] theorem setSt_v (s : State) (b : Byte) : (s.setSt b).v = s.v := rfl
@[simp] theorem setSt_i (s : State) (b : Byte) : (s.setSt b).i = s.i := rfl
@[simp] theorem setSt_pc (s : State) (b : Byte) : (s.setSt b).pc = s.pc := rfl
@[simp] theorem setSt_stack (s : State) (b : Byte) : (s.setSt b).stack = s.stack := rfl
@[simp] theorem setSt_sp (s : State) (b : Byte) : (s.setSt b).sp = s.sp := rfl
@[simp] theorem setSt_dt (s : State) (b : Byte) : (s.setSt b).dt = s.dt := rfl
@[simp] theorem setSt_st (s : State) (b : Byte) : (s.setSt b).st = b := rfl
@[simp] theorem setSt_rng (s : State) (b : Byte) : (s.setSt b).rng = s.rng := rfl
@[simp] theorem setSt_fontBase (s : State) (b : Byte) : (s.setSt b).fontBase = s.fontBase := rfl
@[simp] theorem setSt_mem (s : State) (b : Byte) : (s.setSt b).mem = s.mem := rfl
@[simp] theorem setSt_pix (s : State) (b : Byte) : (s.setSt b).pix = s.pix := rfl
@[simp] theorem setSt_fault (s : State) (b : Byte) : (s.setSt b).fault = s.fault := rfl
@[simp] theorem setSt_keys (s : State) (b : Byte) : (s.setSt b).keys = s.keys := rfl
@[simp] theorem setSt_schedule (s : State) (b : Byte) : (s.setSt b).schedule = s.schedule := rfl
@[simp] theorem setSt_reg (s : State) (b : Byte) (r : Reg) : (s.setSt b).reg r = s.reg r := rfl
@[simp] theorem setSt_byteAt (s : State) (b : Byte) (n : Nat) : (s.setSt b).byteAt n = s.byteAt n := rfl
@[simp] theorem setSt_pixel (s : State) (b : Byte) (r : Fin 32) (c : Fin 64) : (s.setSt b).pixel r c = s.pixel r c := rfl
@[simp] theorem setSt_keyDown (s : State) (b : Byte) (n : Nat) : (s.setSt b).keyDown n = s.keyDown n := rfl

/-! #### `setRng` -/

@[simp] theorem setRng_v (s : State) (w : Word) : (s.setRng w).v = s.v := rfl
@[simp] theorem setRng_i (s : State) (w : Word) : (s.setRng w).i = s.i := rfl
@[simp] theorem setRng_pc (s : State) (w : Word) : (s.setRng w).pc = s.pc := rfl
@[simp] theorem setRng_stack (s : State) (w : Word) : (s.setRng w).stack = s.stack := rfl
@[simp] theorem setRng_sp (s : State) (w : Word) : (s.setRng w).sp = s.sp := rfl
@[simp] theorem setRng_dt (s : State) (w : Word) : (s.setRng w).dt = s.dt := rfl
@[simp] theorem setRng_st (s : State) (w : Word) : (s.setRng w).st = s.st := rfl
@[simp] theorem setRng_rng (s : State) (w : Word) : (s.setRng w).rng = w := rfl
@[simp] theorem setRng_fontBase (s : State) (w : Word) : (s.setRng w).fontBase = s.fontBase := rfl
@[simp] theorem setRng_mem (s : State) (w : Word) : (s.setRng w).mem = s.mem := rfl
@[simp] theorem setRng_pix (s : State) (w : Word) : (s.setRng w).pix = s.pix := rfl
@[simp] theorem setRng_fault (s : State) (w : Word) : (s.setRng w).fault = s.fault := rfl
@[simp] theorem setRng_keys (s : State) (w : Word) : (s.setRng w).keys = s.keys := rfl
@[simp] theorem setRng_schedule (s : State) (w : Word) : (s.setRng w).schedule = s.schedule := rfl
@[simp] theorem setRng_reg (s : State) (w : Word) (r : Reg) : (s.setRng w).reg r = s.reg r := rfl
@[simp] theorem setRng_byteAt (s : State) (w : Word) (n : Nat) : (s.setRng w).byteAt n = s.byteAt n := rfl
@[simp] theorem setRng_pixel (s : State) (w : Word) (r : Fin 32) (c : Fin 64) : (s.setRng w).pixel r c = s.pixel r c := rfl
@[simp] theorem setRng_keyDown (s : State) (w : Word) (n : Nat) : (s.setRng w).keyDown n = s.keyDown n := rfl

/-! #### `setFontBase` -/

@[simp] theorem setFontBase_v (s : State) (a : Word) : (s.setFontBase a).v = s.v := rfl
@[simp] theorem setFontBase_i (s : State) (a : Word) : (s.setFontBase a).i = s.i := rfl
@[simp] theorem setFontBase_pc (s : State) (a : Word) : (s.setFontBase a).pc = s.pc := rfl
@[simp] theorem setFontBase_stack (s : State) (a : Word) : (s.setFontBase a).stack = s.stack := rfl
@[simp] theorem setFontBase_sp (s : State) (a : Word) : (s.setFontBase a).sp = s.sp := rfl
@[simp] theorem setFontBase_dt (s : State) (a : Word) : (s.setFontBase a).dt = s.dt := rfl
@[simp] theorem setFontBase_st (s : State) (a : Word) : (s.setFontBase a).st = s.st := rfl
@[simp] theorem setFontBase_rng (s : State) (a : Word) : (s.setFontBase a).rng = s.rng := rfl
@[simp] theorem setFontBase_fontBase (s : State) (a : Word) : (s.setFontBase a).fontBase = a := rfl
@[simp] theorem setFontBase_mem (s : State) (a : Word) : (s.setFontBase a).mem = s.mem := rfl
@[simp] theorem setFontBase_pix (s : State) (a : Word) : (s.setFontBase a).pix = s.pix := rfl
@[simp] theorem setFontBase_fault (s : State) (a : Word) : (s.setFontBase a).fault = s.fault := rfl
@[simp] theorem setFontBase_keys (s : State) (a : Word) : (s.setFontBase a).keys = s.keys := rfl
@[simp] theorem setFontBase_schedule (s : State) (a : Word) : (s.setFontBase a).schedule = s.schedule := rfl
@[simp] theorem setFontBase_reg (s : State) (a : Word) (r : Reg) : (s.setFontBase a).reg r = s.reg r := rfl
@[simp] theorem setFontBase_byteAt (s : State) (a : Word) (n : Nat) : (s.setFontBase a).byteAt n = s.byteAt n := rfl
@[simp] theorem setFontBase_pixel (s : State) (a : Word) (r : Fin 32) (c : Fin 64) : (s.setFontBase a).pixel r c = s.pixel r c := rfl
@[simp] theorem setFontBase_keyDown (s : State) (a : Word) (n : Nat) : (s.setFontBase a).keyDown n = s.keyDown n := rfl

/-! #### `setMem` -/

@[simp] theorem setMem_v (s : State) (m : Memory) : (s.setMem m).v = s.v := rfl
@[simp] theorem setMem_i (s : State) (m : Memory) : (s.setMem m).i = s.i := rfl
@[simp] theorem setMem_pc (s : State) (m : Memory) : (s.setMem m).pc = s.pc := rfl
@[simp] theorem setMem_stack (s : State) (m : Memory) : (s.setMem m).stack = s.stack := rfl
@[simp] theorem setMem_sp (s : State) (m : Memory) : (s.setMem m).sp = s.sp := rfl
@[simp] theorem setMem_dt (s : State) (m : Memory) : (s.setMem m).dt = s.dt := rfl
@[simp] theorem setMem_st (s : State) (m : Memory) : (s.setMem m).st = s.st := rfl
@[simp] theorem setMem_rng (s : State) (m : Memory) : (s.setMem m).rng = s.rng := rfl
@[simp] theorem setMem_fontBase (s : State) (m : Memory) : (s.setMem m).fontBase = s.fontBase := rfl
@[simp] theorem setMem_mem (s : State) (m : Memory) : (s.setMem m).mem = m := rfl
@[simp] theorem setMem_pix (s : State) (m : Memory) : (s.setMem m).pix = s.pix := rfl
@[simp] theorem setMem_fault (s : State) (m : Memory) : (s.setMem m).fault = s.fault := rfl
@[simp] theorem setMem_keys (s : State) (m : Memory) : (s.setMem m).keys = s.keys := rfl
@[simp] theorem setMem_schedule (s : State) (m : Memory) : (s.setMem m).schedule = s.schedule := rfl
@[simp] theorem setMem_reg (s : State) (m : Memory) (r : Reg) : (s.setMem m).reg r = s.reg r := rfl
@[simp] theorem setMem_byteAt (s : State) (m : Memory) (n : Nat) : (s.setMem m).byteAt n = Memory.read m n := rfl
@[simp] theorem setMem_pixel (s : State) (m : Memory) (r : Fin 32) (c : Fin 64) : (s.setMem m).pixel r c = s.pixel r c := rfl
@[simp] theorem setMem_keyDown (s : State) (m : Memory) (n : Nat) : (s.setMem m).keyDown n = s.keyDown n := rfl

/-! #### `setPix` -/

@[simp] theorem setPix_v (s : State) (g : Grid) : (s.setPix g).v = s.v := rfl
@[simp] theorem setPix_i (s : State) (g : Grid) : (s.setPix g).i = s.i := rfl
@[simp] theorem setPix_pc (s : State) (g : Grid) : (s.setPix g).pc = s.pc := rfl
@[simp] theorem setPix_stack (s : State) (g : Grid) : (s.setPix g).stack = s.stack := rfl
@[simp] theorem setPix_sp (s : State) (g : Grid) : (s.setPix g).sp = s.sp := rfl
@[simp] theorem setPix_dt (s : State) (g : Grid) : (s.setPix g).dt = s.dt := rfl
@[simp] theorem setPix_st (s : State) (g : Grid) : (s.setPix g).st = s.st := rfl
@[simp] theorem setPix_rng (s : State) (g : Grid) : (s.setPix g).rng = s.rng := rfl
@[simp] theorem setPix_fontBase (s : State) (g : Grid) : (s.setPix g).fontBase = s.fontBase := rfl
@[simp] theorem setPix_mem (s : State) (g : Grid) : (s.setPix g).mem = s.mem := rfl
@[simp] theorem setPix_pix (s : State) (g : Grid) : (s.setPix g).pix = g := rfl
@[simp] theorem setPix_fault (s : State) (g : Grid) : (s.setPix g).fault = s.fault := rfl
@[simp] theorem setPix_keys (s : State) (g : Grid) : (s.setPix g).keys = s.keys := rfl
@[simp] theorem setPix_schedule (s : State) (g : Grid) : (s.setPix g).schedule = s.schedule := rfl
@[simp] theorem setPix_reg (s : State) (g : Grid) (r : Reg) : (s.setPix g).reg r = s.reg r := rfl
@[simp] theorem setPix_byteAt (s : State) (g : Grid) (n : Nat) : (s.setPix g).byteAt n = s.byteAt n := rfl
@[simp] theorem setPix_pixel (s : State) (g : Grid) (r : Fin 32) (c : Fin 64) : (s.setPix g).pixel r c = (g.get r).getLsbD c := rfl
@[simp] theorem setPix_keyDown (s : State) (g : Grid) (n : Nat) : (s.setPix g).keyDown n = s.keyDown n := rfl

/-! #### `setFault` -/

@[simp] theorem setFault_v (s : State) (f : Option Fault) : (s.setFault f).v = s.v := rfl
@[simp] theorem setFault_i (s : State) (f : Option Fault) : (s.setFault f).i = s.i := rfl
@[simp] theorem setFault_pc (s : State) (f : Option Fault) : (s.setFault f).pc = s.pc := rfl
@[simp] theorem setFault_stack (s : State) (f : Option Fault) : (s.setFault f).stack = s.stack := rfl
@[simp] theorem setFault_sp (s : State) (f : Option Fault) : (s.setFault f).sp = s.sp := rfl
@[simp] theorem setFault_dt (s : State) (f : Option Fault) : (s.setFault f).dt = s.dt := rfl
@[simp] theorem setFault_st (s : State) (f : Option Fault) : (s.setFault f).st = s.st := rfl
@[simp] theorem setFault_rng (s : State) (f : Option Fault) : (s.setFault f).rng = s.rng := rfl
@[simp] theorem setFault_fontBase (s : State) (f : Option Fault) : (s.setFault f).fontBase = s.fontBase := rfl
@[simp] theorem setFault_mem (s : State) (f : Option Fault) : (s.setFault f).mem = s.mem := rfl
@[simp] theorem setFault_pix (s : State) (f : Option Fault) : (s.setFault f).pix = s.pix := rfl
@[simp] theorem setFault_fault (s : State) (f : Option Fault) : (s.setFault f).fault = f := rfl
@[simp] theorem setFault_keys (s : State) (f : Option Fault) : (s.setFault f).keys = s.keys := rfl
@[simp] theorem setFault_schedule (s : State) (f : Option Fault) : (s.setFault f).schedule = s.schedule := rfl
@[simp] theorem setFault_reg (s : State) (f : Option Fault) (r : Reg) : (s.setFault f).reg r = s.reg r := rfl
@[simp] theorem setFault_byteAt (s : State) (f : Option Fault) (n : Nat) : (s.setFault f).byteAt n = s.byteAt n := rfl
@[simp] theorem setFault_pixel (s : State) (f : Option Fault) (r : Fin 32) (c : Fin 64) : (s.setFault f).pixel r c = s.pixel r c := rfl
@[simp] theorem setFault_keyDown (s : State) (f : Option Fault) (n : Nat) : (s.setFault f).keyDown n = s.keyDown n := rfl

/-! #### `setKeys` -/

@[simp] theorem setKeys_v (s : State) (k : Word) : (s.setKeys k).v = s.v := rfl
@[simp] theorem setKeys_i (s : State) (k : Word) : (s.setKeys k).i = s.i := rfl
@[simp] theorem setKeys_pc (s : State) (k : Word) : (s.setKeys k).pc = s.pc := rfl
@[simp] theorem setKeys_stack (s : State) (k : Word) : (s.setKeys k).stack = s.stack := rfl
@[simp] theorem setKeys_sp (s : State) (k : Word) : (s.setKeys k).sp = s.sp := rfl
@[simp] theorem setKeys_dt (s : State) (k : Word) : (s.setKeys k).dt = s.dt := rfl
@[simp] theorem setKeys_st (s : State) (k : Word) : (s.setKeys k).st = s.st := rfl
@[simp] theorem setKeys_rng (s : State) (k : Word) : (s.setKeys k).rng = s.rng := rfl
@[simp] theorem setKeys_fontBase (s : State) (k : Word) : (s.setKeys k).fontBase = s.fontBase := rfl
@[simp] theorem setKeys_mem (s : State) (k : Word) : (s.setKeys k).mem = s.mem := rfl
@[simp] theorem setKeys_pix (s : State) (k : Word) : (s.setKeys k).pix = s.pix := rfl
@[simp] theorem setKeys_fault (s : State) (k : Word) : (s.setKeys k).fault = s.fault := rfl
@[simp] theorem setKeys_keys (s : State) (k : Word) : (s.setKeys k).keys = k := rfl
@[simp] theorem setKeys_schedule (s : State) (k : Word) : (s.setKeys k).schedule = s.schedule := rfl
@[simp] theorem setKeys_reg (s : State) (k : Word) (r : Reg) : (s.setKeys k).reg r = s.reg r := rfl
@[simp] theorem setKeys_byteAt (s : State) (k : Word) (n : Nat) : (s.setKeys k).byteAt n = s.byteAt n := rfl
@[simp] theorem setKeys_pixel (s : State) (k : Word) (r : Fin 32) (c : Fin 64) : (s.setKeys k).pixel r c = s.pixel r c := rfl
@[simp] theorem setKeys_keyDown (s : State) (k : Word) (n : Nat) : (s.setKeys k).keyDown n = k.getLsbD n := rfl

/-! #### `setSchedule` -/

@[simp] theorem setSchedule_v (s : State) (es : List Event) : (s.setSchedule es).v = s.v := rfl
@[simp] theorem setSchedule_i (s : State) (es : List Event) : (s.setSchedule es).i = s.i := rfl
@[simp] theorem setSchedule_pc (s : State) (es : List Event) : (s.setSchedule es).pc = s.pc := rfl
@[simp] theorem setSchedule_stack (s : State) (es : List Event) : (s.setSchedule es).stack = s.stack := rfl
@[simp] theorem setSchedule_sp (s : State) (es : List Event) : (s.setSchedule es).sp = s.sp := rfl
@[simp] theorem setSchedule_dt (s : State) (es : List Event) : (s.setSchedule es).dt = s.dt := rfl
@[simp] theorem setSchedule_st (s : State) (es : List Event) : (s.setSchedule es).st = s.st := rfl
@[simp] theorem setSchedule_rng (s : State) (es : List Event) : (s.setSchedule es).rng = s.rng := rfl
@[simp] theorem setSchedule_fontBase (s : State) (es : List Event) : (s.setSchedule es).fontBase = s.fontBase := rfl
@[simp] theorem setSchedule_mem (s : State) (es : List Event) : (s.setSchedule es).mem = s.mem := rfl
@[simp] theorem setSchedule_pix (s : State) (es : List Event) : (s.setSchedule es).pix = s.pix := rfl
@[simp] theorem setSchedule_fault (s : State) (es : List Event) : (s.setSchedule es).fault = s.fault := rfl
@[simp] theorem setSchedule_keys (s : State) (es : List Event) : (s.setSchedule es).keys = s.keys := rfl
@[simp] theorem setSchedule_schedule (s : State) (es : List Event) : (s.setSchedule es).schedule = es := rfl
@[simp] theorem setSchedule_reg (s : State) (es : List Event) (r : Reg) : (s.setSchedule es).reg r = s.reg r := rfl
@[simp] theorem setSchedule_byteAt (s : State) (es : List Event) (n : Nat) : (s.setSchedule es).byteAt n = s.byteAt n := rfl
@[simp] theorem setSchedule_pixel (s : State) (es : List Event) (r : Fin 32) (c : Fin 64) : (s.setSchedule es).pixel r c = s.pixel r c := rfl
@[simp] theorem setSchedule_keyDown (s : State) (es : List Event) (n : Nat) : (s.setSchedule es).keyDown n = s.keyDown n := rfl

/-! #### `raise` -/

@[simp] theorem raise_v (s : State) (f : Fault) : (s.raise f).v = s.v := rfl
@[simp] theorem raise_i (s : State) (f : Fault) : (s.raise f).i = s.i := rfl
@[simp] theorem raise_pc (s : State) (f : Fault) : (s.raise f).pc = s.pc := rfl
@[simp] theorem raise_stack (s : State) (f : Fault) : (s.raise f).stack = s.stack := rfl
@[simp] theorem raise_sp (s : State) (f : Fault) : (s.raise f).sp = s.sp := rfl
@[simp] theorem raise_dt (s : State) (f : Fault) : (s.raise f).dt = s.dt := rfl
@[simp] theorem raise_st (s : State) (f : Fault) : (s.raise f).st = s.st := rfl
@[simp] theorem raise_rng (s : State) (f : Fault) : (s.raise f).rng = s.rng := rfl
@[simp] theorem raise_fontBase (s : State) (f : Fault) : (s.raise f).fontBase = s.fontBase := rfl
@[simp] theorem raise_mem (s : State) (f : Fault) : (s.raise f).mem = s.mem := rfl
@[simp] theorem raise_pix (s : State) (f : Fault) : (s.raise f).pix = s.pix := rfl
@[simp] theorem raise_fault (s : State) (f : Fault) : (s.raise f).fault = some f := rfl
@[simp] theorem raise_keys (s : State) (f : Fault) : (s.raise f).keys = s.keys := rfl
@[simp] theorem raise_schedule (s : State) (f : Fault) : (s.raise f).schedule = s.schedule := rfl
@[simp] theorem raise_reg (s : State) (f : Fault) (r : Reg) : (s.raise f).reg r = s.reg r := rfl
@[simp] theorem raise_byteAt (s : State) (f : Fault) (n : Nat) : (s.raise f).byteAt n = s.byteAt n := rfl
@[simp] theorem raise_pixel (s : State) (f : Fault) (r : Fin 32) (c : Fin 64) : (s.raise f).pixel r c = s.pixel r c := rfl
@[simp] theorem raise_keyDown (s : State) (f : Fault) (n : Nat) : (s.raise f).keyDown n = s.keyDown n := rfl

/-- Reading a general register after writing one (R20). -/
@[simp] theorem setReg_reg (s : State) (x : Reg) (b : Byte) (r : Reg) :
    (s.setReg x b).reg r = if r = x then b else s.reg r := by
  simp only [reg, setReg, Vector.get_eq_getElem, Vector.getElem_set, Fin.ext_iff, eq_comm]

/-- Two states with the same fields are the same state. -/
theorem ext_fields {s t : State} (hv : s.v = t.v) (hi : s.i = t.i) (hpc : s.pc = t.pc) (hstack : s.stack = t.stack)
    (hsp : s.sp = t.sp) (hdt : s.dt = t.dt) (hst : s.st = t.st) (hrng : s.rng = t.rng) (hfb : s.fontBase = t.fontBase)
    (hmem : s.mem = t.mem) (hpix : s.pix = t.pix) (hfault : s.fault = t.fault) (hkeys : s.keys = t.keys)
    (hsched : s.schedule = t.schedule) : s = t := by
  cases s; cases t; simp_all

/-- Two register files that read alike are the same register file. -/
theorem v_ext {s t : State} (h : ∀ r, s.reg r = t.reg r) : s.v = t.v := by
  apply Vector.ext
  intro k hk
  exact h ⟨k, hk⟩

/-- The register file after two writes of one register is that after the last. -/
@[simp] theorem setReg_setReg_same (s : State) (x : Reg) (a b : Byte) : (s.setReg x a).setReg x b = s.setReg x b := by
  simp [setReg]

/-- The flag is what `VF` holds after it is written (R100). -/
@[simp] theorem setFlag_reg (s : State) (f : Bool) (r : Reg) :
    (s.setFlag f).reg r = if r = vf then flagByte f else s.reg r := by
  simp [setFlag]

/-- A result with its flag: `VF` holds the flag, also when it is the destination (R100). -/
@[simp] theorem setResult_reg (s : State) (x : Reg) (b : Byte) (f : Bool) (r : Reg) :
    (s.setResult x b f).reg r = if r = vf then flagByte f else if r = x then b else s.reg r := by
  simp [setResult]

@[simp] theorem setFlag_i (s : State) (f : Bool) : (s.setFlag f).i = s.i := rfl
@[simp] theorem setFlag_pc (s : State) (f : Bool) : (s.setFlag f).pc = s.pc := rfl
@[simp] theorem setFlag_stack (s : State) (f : Bool) : (s.setFlag f).stack = s.stack := rfl
@[simp] theorem setFlag_sp (s : State) (f : Bool) : (s.setFlag f).sp = s.sp := rfl
@[simp] theorem setFlag_dt (s : State) (f : Bool) : (s.setFlag f).dt = s.dt := rfl
@[simp] theorem setFlag_st (s : State) (f : Bool) : (s.setFlag f).st = s.st := rfl
@[simp] theorem setFlag_rng (s : State) (f : Bool) : (s.setFlag f).rng = s.rng := rfl
@[simp] theorem setFlag_fontBase (s : State) (f : Bool) : (s.setFlag f).fontBase = s.fontBase := rfl
@[simp] theorem setFlag_mem (s : State) (f : Bool) : (s.setFlag f).mem = s.mem := rfl
@[simp] theorem setFlag_pix (s : State) (f : Bool) : (s.setFlag f).pix = s.pix := rfl
@[simp] theorem setFlag_fault (s : State) (f : Bool) : (s.setFlag f).fault = s.fault := rfl
@[simp] theorem setFlag_keys (s : State) (f : Bool) : (s.setFlag f).keys = s.keys := rfl
@[simp] theorem setFlag_schedule (s : State) (f : Bool) : (s.setFlag f).schedule = s.schedule := rfl
@[simp] theorem setFlag_byteAt (s : State) (f : Bool) (n : Nat) : (s.setFlag f).byteAt n = s.byteAt n := rfl
@[simp] theorem setFlag_pixel (s : State) (f : Bool) (r : Fin 32) (c : Fin 64) : (s.setFlag f).pixel r c = s.pixel r c := rfl

@[simp] theorem setResult_i (s : State) (x : Reg) (b : Byte) (f : Bool) : (s.setResult x b f).i = s.i := rfl
@[simp] theorem setResult_pc (s : State) (x : Reg) (b : Byte) (f : Bool) : (s.setResult x b f).pc = s.pc := rfl
@[simp] theorem setResult_stack (s : State) (x : Reg) (b : Byte) (f : Bool) : (s.setResult x b f).stack = s.stack := rfl
@[simp] theorem setResult_sp (s : State) (x : Reg) (b : Byte) (f : Bool) : (s.setResult x b f).sp = s.sp := rfl
@[simp] theorem setResult_dt (s : State) (x : Reg) (b : Byte) (f : Bool) : (s.setResult x b f).dt = s.dt := rfl
@[simp] theorem setResult_st (s : State) (x : Reg) (b : Byte) (f : Bool) : (s.setResult x b f).st = s.st := rfl
@[simp] theorem setResult_rng (s : State) (x : Reg) (b : Byte) (f : Bool) : (s.setResult x b f).rng = s.rng := rfl
@[simp] theorem setResult_fontBase (s : State) (x : Reg) (b : Byte) (f : Bool) : (s.setResult x b f).fontBase = s.fontBase := rfl
@[simp] theorem setResult_mem (s : State) (x : Reg) (b : Byte) (f : Bool) : (s.setResult x b f).mem = s.mem := rfl
@[simp] theorem setResult_pix (s : State) (x : Reg) (b : Byte) (f : Bool) : (s.setResult x b f).pix = s.pix := rfl
@[simp] theorem setResult_fault (s : State) (x : Reg) (b : Byte) (f : Bool) : (s.setResult x b f).fault = s.fault := rfl
@[simp] theorem setResult_keys (s : State) (x : Reg) (b : Byte) (f : Bool) : (s.setResult x b f).keys = s.keys := rfl
@[simp] theorem setResult_schedule (s : State) (x : Reg) (b : Byte) (f : Bool) : (s.setResult x b f).schedule = s.schedule := rfl
@[simp] theorem setResult_byteAt (s : State) (x : Reg) (b : Byte) (f : Bool) (n : Nat) : (s.setResult x b f).byteAt n = s.byteAt n := rfl
@[simp] theorem setResult_pixel (s : State) (x : Reg) (b : Byte) (f : Bool) (r : Fin 32) (c : Fin 64) : (s.setResult x b f).pixel r c = s.pixel r c := rfl

end Sys2Proof.Machine.State
end

