-- ==== Sys2Proof/Laws/Memory.lean ====
section
/-! SUPPORT. The laws of memory: what a byte reads as after a write, and that every operation keeps the canonical form. -/

namespace Sys2Proof.Machine.Memory

theorem read_erase (m : Memory) (a c : Nat) : read (erase m a) c = if c = a then unlisted else read m c := by
  induction m with
  | nil => simp [erase, read]
  | cons d m ih =>
    simp only [erase, List.filter_cons, bne_iff_ne, ne_eq] at ih ⊢
    by_cases hd : d.1 = a <;> by_cases hc : c = a <;> by_cases hdc : d.1 = c <;> simp_all [read]

theorem read_insertCell (c : Host.Cell) (m : Memory) (h : ∀ d ∈ m, d.1 ≠ c.1) (a : Nat) :
    read (insertCell c m) a = if a = c.1 then c.2 else read m a := by
  induction m with
  | nil => by_cases ha : a = c.1 <;> simp [insertCell, read, ha, eq_comm]
  | cons d m ih =>
    have hd : d.1 ≠ c.1 := h d (by simp)
    have ih := ih fun e he => h e (by simp [he])
    unfold insertCell
    split
    · by_cases ha : a = c.1 <;> simp [read, ha, eq_comm]
    · by_cases ha : a = c.1
      · rw [read, if_neg (ha ▸ hd), ih, if_pos ha, if_pos ha]
      · simp [read, ha, ih]

/-- A write is read back at its address and nowhere else (R53). -/
theorem read_write (m : Memory) (a : Nat) (b : Byte) (c : Nat) :
    read (write m a b) c = if c = a then b else read m c := by
  unfold write
  split
  · next h => simp [read_erase, h]
  · rw [read_insertCell _ _ (by simp [erase]), read_erase]
    by_cases h : c = a <;> simp [h]

@[simp] theorem read_write_same (m : Memory) (a : Nat) (b : Byte) : read (write m a b) a = b := by
  simp [read_write]

theorem read_write_ne (m : Memory) (a c : Nat) (b : Byte) (h : c ≠ a) : read (write m a b) c = read m c := by
  simp [read_write, h]

theorem mem_insertCell {c d : Host.Cell} {m : Memory} : d ∈ insertCell c m ↔ d = c ∨ d ∈ m := by
  induction m with
  | nil => simp [insertCell]
  | cons e m ih =>
    unfold insertCell
    split
    · simp
    · simp [ih, or_left_comm]

theorem pairwise_insertCell {c : Host.Cell} {m : Memory} (h : m.Pairwise fun d e => d.1 < e.1)
    (hc : ∀ d ∈ m, d.1 ≠ c.1) : (insertCell c m).Pairwise fun d e => d.1 < e.1 := by
  induction m with
  | nil => simp [insertCell]
  | cons e m ih =>
    have ⟨he, hm⟩ := List.pairwise_cons.1 h
    unfold insertCell
    split
    · next hlt =>
      refine List.pairwise_cons.2 ⟨fun d hd => ?_, h⟩
      rcases List.mem_cons.1 hd with rfl | hd
      · exact hlt
      · exact lt_trans hlt (he d hd)
    · next hlt =>
      refine List.pairwise_cons.2 ⟨fun d hd => ?_, ih hm fun d hd => hc d (by simp [hd])⟩
      rcases mem_insertCell.1 hd with rfl | hd
      · have := hc e (by simp)
        omega
      · exact he d hd

/-- A write inside the memory keeps the canonical form. -/
theorem wf_write {m : Memory} (h : wf m) {a : Nat} (ha : a < Config.memSize) (b : Byte) : wf (write m a b) := by
  have herase : (erase m a).Pairwise fun d e => d.1 < e.1 := h.1.filter _
  have hmem : ∀ d ∈ erase m a, d ∈ m ∧ d.1 ≠ a := by simp [erase]
  unfold write
  split
  · exact ⟨herase, fun c hc => h.2 c (hmem c hc).1⟩
  · next hb =>
    refine ⟨pairwise_insertCell herase fun d hd => (hmem d hd).2, fun c hc => ?_⟩
    rcases mem_insertCell.1 hc with rfl | hc
    · exact ⟨hb, ha⟩
    · exact h.2 c (hmem c hc).1

@[simp] theorem wf_nil : wf [] := by simp [wf]

/-- The memory of `State.reset` has the canonical form. -/
theorem wf_resetMem : wf State.resetMem := by decide

/-- A canonical memory reads as unlisted from 0x1000 up. -/
theorem read_of_wf {m : Memory} (h : wf m) {a : Nat} (ha : Config.memSize ≤ a) : read m a = unlisted := by
  induction m with
  | nil => rfl
  | cons c m ih =>
    have hc := (h.2 c (by simp)).2
    have hm : wf m := ⟨(List.pairwise_cons.1 h.1).2, fun d hd => h.2 d (by simp [hd])⟩
    rw [read, if_neg (by omega), ih hm]

end Sys2Proof.Machine.Memory
end

