-- ==== Sys2Proof/Laws/Ops.lean ====
section
/-! SUPPORT. One lemma for each shared operation, saying once what it can do. Proofs cite these and do not unfold. -/

namespace Sys2Proof.Machine

/-! ### Checked accesses -/

theorem memRead_ok {s : State} {a : Nat} (h : a < 0x1000) : memRead s a = .ok (s.byteAt a) := if_pos h

theorem memRead_error {s : State} {a : Nat} (h : 0x1000 ≤ a) :
    memRead s a = .error (.addressOutOfRange (BitVec.ofNat 16 a)) := if_neg (Nat.not_lt.2 h)

theorem memWrite_ok {s : State} {a : Nat} {b : Byte} (h : a < 0x1000) :
    memWrite s a b = .ok (s.setMem (Memory.write s.mem a b)) := if_pos h

theorem memWrite_error {s : State} {a : Nat} {b : Byte} (h : 0x1000 ≤ a) :
    memWrite s a b = .error (.addressOutOfRange (BitVec.ofNat 16 a)) := if_neg (Nat.not_lt.2 h)

theorem byteAt_write (s : State) (a : Nat) (b : Byte) (c : Nat) :
    (s.setMem (Memory.write s.mem a b)).byteAt c = if c = a then b else s.byteAt c :=
  Memory.read_write s.mem a b c

/-- A write that succeeds is inside the memory, and changes only that byte (R53). -/
theorem memWrite_cases {s t : State} {a : Nat} {b : Byte} (h : memWrite s a b = .ok t) :
    a < 0x1000 ∧ t = s.setMem (Memory.write s.mem a b) := by
  unfold memWrite at h
  split at h
  · next ha => exact ⟨ha, (Except.ok.inj h).symm⟩
  · cases h

/-! ### The call stack -/

theorem push_ok {s : State} (h : s.sp.val < 16) (v : Word) :
    push s v = .ok (s.setStack (s.stack.set s.sp.val v h) ⟨s.sp.val + 1, by omega⟩) := dif_pos h

theorem push_full {s : State} (h : ¬s.sp.val < 16) (v : Word) : push s v = .error .stackOverflow := dif_neg h

theorem pop_ok {s : State} (h : 0 < s.sp.val) :
    pop s = .ok (s.stack[s.sp.val - 1]'(by omega), s.setStack s.stack ⟨s.sp.val - 1, by omega⟩) := dif_pos h

theorem pop_empty {s : State} (h : ¬0 < s.sp.val) : pop s = .error .stackUnderflow := dif_neg h

/-! ### Loops of accesses -/

@[simp] theorem forEach_nil {σ : Type} (f : Nat → σ → Except Fault σ) (s : σ) : forEach f [] s = (s, none) := rfl

theorem forEach_cons {σ : Type} (f : Nat → σ → Except Fault σ) (k : Nat) (ks : List Nat) (s : σ) :
    forEach f (k :: ks) s =
      match f k s with
      | .ok s' => forEach f ks s'
      | .error e => (s, some e) := rfl

theorem forEach_cons_ok {σ : Type} {f : Nat → σ → Except Fault σ} {k : Nat} {s s' : σ} (h : f k s = .ok s')
    (ks : List Nat) : forEach f (k :: ks) s = forEach f ks s' := by
  rw [forEach_cons, h]

theorem forEach_cons_error {σ : Type} {f : Nat → σ → Except Fault σ} {k : Nat} {s : σ} {e : Fault}
    (h : f k s = .error e) (ks : List Nat) : forEach f (k :: ks) s = (s, some e) := by
  rw [forEach_cons, h]

/-- A loop whose first part raises ends there; else the second part goes on from where it ends. -/
theorem forEach_append {σ : Type} (f : Nat → σ → Except Fault σ) (ks ls : List Nat) (s : σ) :
    forEach f (ks ++ ls) s =
      match forEach f ks s with
      | (s', none) => forEach f ls s'
      | (s', some e) => (s', some e) := by
  induction ks generalizing s with
  | nil => rfl
  | cons k ks ih =>
    rw [List.cons_append, forEach_cons, forEach_cons]
    cases f k s with
    | ok s' => exact ih s'
    | error e => rfl

theorem forEach_snoc_none {σ : Type} {f : Nat → σ → Except Fault σ} {ks : List Nat} {s s' : σ}
    (h : forEach f ks s = (s', none)) (k : Nat) : forEach f (ks ++ [k]) s = forEach f [k] s' := by
  rw [forEach_append, h]

theorem forEach_snoc_some {σ : Type} {f : Nat → σ → Except Fault σ} {ks : List Nat} {s s' : σ} {e : Fault}
    (h : forEach f ks s = (s', some e)) (k : Nat) : forEach f (ks ++ [k]) s = (s', some e) := by
  rw [forEach_append, h]

/-- What holds at the start of a loop and is kept by each step that succeeds holds where the loop ends, faulted or not. -/
theorem forEach_keeps {σ : Type} {f : Nat → σ → Except Fault σ} {P : σ → Prop}
    (hf : ∀ k s s', P s → f k s = .ok s' → P s') (ks : List Nat) {s : σ} (h : P s) : P (forEach f ks s).1 := by
  induction ks generalizing s with
  | nil => exact h
  | cons k ks ih =>
    rw [forEach_cons]
    split
    · next heq => exact ih (hf _ _ _ h heq)
    · exact h

/-- A loop raises only what one of its steps raises. -/
theorem forEach_raises {σ : Type} {f : Nat → σ → Except Fault σ} {Q : Fault → Prop}
    (hf : ∀ k s e, f k s = .error e → Q e) (ks : List Nat) {s : σ} {e : Fault} (h : (forEach f ks s).2 = some e) :
    Q e := by
  induction ks generalizing s with
  | nil => cases h
  | cons k ks ih =>
    rw [forEach_cons] at h
    split at h
    · exact ih h
    · next heq => exact (Option.some.inj h) ▸ hf _ _ _ heq

/-- The length of the part of `I, I + 1, ..., I + n - 1` that lies inside the memory. -/
def inRange (s : State) (n : Nat) : Nat := min n (0x1000 - s.i.toNat)

/-- A loop of byte writes at `I + k`: `byte k` is written at each address inside the memory, the first address outside
raises, and nothing but memory changes. -/
theorem forEach_memWrite {f : Nat → State → Except Fault State} {byte : Nat → Byte} {s : State}
    (hf : ∀ k t, t.i = s.i → t.v = s.v → f k t = memWrite t (effAddr s k) (byte k)) (n : Nat) :
    ∃ m, (forEach f (List.range n) s).1 = s.setMem m ∧
      (∀ a, Memory.read m a =
        if s.i.toNat ≤ a ∧ a < s.i.toNat + inRange s n then byte (a - s.i.toNat) else s.byteAt a) ∧
      (forEach f (List.range n) s).2 =
        if s.i.toNat + n ≤ 0x1000 ∨ n = 0 then none
        else some (.addressOutOfRange (BitVec.ofNat 16 (effAddr s (0x1000 - s.i.toNat)))) := by
  induction n with
  | zero => exact ⟨s.mem, rfl, fun a => by simp [inRange, State.byteAt], by simp⟩
  | succ n ih =>
    obtain ⟨m, h1, h2, h3⟩ := ih
    rw [List.range_succ]
    rcases hr : forEach f (List.range n) s with ⟨r1, r2⟩
    rw [hr] at h1 h3
    simp only at h1 h3
    subst h1
    by_cases hin : s.i.toNat + n ≤ 0x1000 ∨ n = 0
    · rw [if_pos hin] at h3
      subst h3
      rw [forEach_snoc_none hr]
      have hn : inRange s n = n := by unfold inRange; omega
      by_cases hlt : s.i.toNat + n < 0x1000
      · have hstep : f n (s.setMem m) = .ok (s.setMem (Memory.write m (effAddr s n) (byte n))) := by
          rw [hf n (s.setMem m) rfl rfl]; exact memWrite_ok hlt
        refine ⟨Memory.write m (effAddr s n) (byte n), by rw [forEach_cons_ok hstep]; rfl, fun a => ?_, ?_⟩
        · have hn' : inRange s (n + 1) = n + 1 := by unfold inRange; omega
          rw [Memory.read_write, h2, hn, hn']
          unfold effAddr
          by_cases ha : a = s.i.toNat + n
          · subst ha
            rw [if_pos rfl, if_pos (by omega)]
            congr 1
            omega
          · rw [if_neg ha]
            by_cases hb : s.i.toNat ≤ a ∧ a < s.i.toNat + n
            · rw [if_pos hb, if_pos (by omega)]
            · rw [if_neg hb, if_neg (by omega)]
        · rw [forEach_cons_ok hstep, if_pos (by omega)]; rfl
      · have hstep : f n (s.setMem m) = .error (.addressOutOfRange (BitVec.ofNat 16 (effAddr s n))) := by
          rw [hf n (s.setMem m) rfl rfl, memWrite_error (by unfold effAddr; omega)]
        refine ⟨m, by rw [forEach_cons_error hstep], fun a => ?_, ?_⟩
        · have hn' : inRange s (n + 1) = n := by unfold inRange; omega
          rw [h2, hn, hn']
        · rw [forEach_cons_error hstep, if_neg (by omega)]
          simp only [effAddr]
          congr 3
          omega
    · rw [if_neg hin] at h3
      subst h3
      rw [forEach_snoc_some hr]
      refine ⟨m, rfl, fun a => ?_, by rw [if_neg (by omega)]⟩
      have hn' : inRange s (n + 1) = inRange s n := by unfold inRange; omega
      rw [h2, hn']

/-- A dump of `V0` to `V[n-1]` writes those registers' bytes as far as the memory reaches (R156, R155). -/
theorem forEach_storeReg (s : State) (n : Nat) :
    ∃ m, (forEach storeReg (List.range n) s).1 = s.setMem m ∧
      (∀ a, Memory.read m a =
        if s.i.toNat ≤ a ∧ a < s.i.toNat + inRange s n then s.reg (loopReg (a - s.i.toNat)) else s.byteAt a) ∧
      (forEach storeReg (List.range n) s).2 =
        if s.i.toNat + n ≤ 0x1000 ∨ n = 0 then none
        else some (.addressOutOfRange (BitVec.ofNat 16 (effAddr s (0x1000 - s.i.toNat)))) :=
  forEach_memWrite (byte := fun k => s.reg (loopReg k))
    (fun k t hi hv => by simp only [storeReg, effAddr, State.reg, hi, hv]) n

/-- A BCD store writes the three digits as far as the memory reaches (R153, R155). -/
theorem forEach_storeDigit (b : Byte) (s : State) (n : Nat) :
    ∃ m, (forEach (storeDigit b) (List.range n) s).1 = s.setMem m ∧
      (∀ a, Memory.read m a =
        if s.i.toNat ≤ a ∧ a < s.i.toNat + inRange s n then bcdDigit b (a - s.i.toNat) else s.byteAt a) ∧
      (forEach (storeDigit b) (List.range n) s).2 =
        if s.i.toNat + n ≤ 0x1000 ∨ n = 0 then none
        else some (.addressOutOfRange (BitVec.ofNat 16 (effAddr s (0x1000 - s.i.toNat)))) :=
  forEach_memWrite (byte := bcdDigit b) (fun k t hi _ => by simp only [storeDigit, effAddr, hi]) n

/-- The state with another register file. -/
def State.withRegs (s : State) (v : Vector Byte 16) : State := { s with v := v }

/-! #### `withRegs` -/

@[simp] theorem State.withRegs_reg (s : State) (v : Vector Byte 16) (r : Reg) : (s.withRegs v).reg r = v.get r := rfl
@[simp] theorem State.withRegs_i (s : State) (v : Vector Byte 16) : (s.withRegs v).i = s.i := rfl
@[simp] theorem State.withRegs_pc (s : State) (v : Vector Byte 16) : (s.withRegs v).pc = s.pc := rfl
@[simp] theorem State.withRegs_stack (s : State) (v : Vector Byte 16) : (s.withRegs v).stack = s.stack := rfl
@[simp] theorem State.withRegs_sp (s : State) (v : Vector Byte 16) : (s.withRegs v).sp = s.sp := rfl
@[simp] theorem State.withRegs_dt (s : State) (v : Vector Byte 16) : (s.withRegs v).dt = s.dt := rfl
@[simp] theorem State.withRegs_st (s : State) (v : Vector Byte 16) : (s.withRegs v).st = s.st := rfl
@[simp] theorem State.withRegs_rng (s : State) (v : Vector Byte 16) : (s.withRegs v).rng = s.rng := rfl
@[simp] theorem State.withRegs_fontBase (s : State) (v : Vector Byte 16) : (s.withRegs v).fontBase = s.fontBase := rfl
@[simp] theorem State.withRegs_mem (s : State) (v : Vector Byte 16) : (s.withRegs v).mem = s.mem := rfl
@[simp] theorem State.withRegs_pix (s : State) (v : Vector Byte 16) : (s.withRegs v).pix = s.pix := rfl
@[simp] theorem State.withRegs_fault (s : State) (v : Vector Byte 16) : (s.withRegs v).fault = s.fault := rfl
@[simp] theorem State.withRegs_keys (s : State) (v : Vector Byte 16) : (s.withRegs v).keys = s.keys := rfl
@[simp] theorem State.withRegs_schedule (s : State) (v : Vector Byte 16) : (s.withRegs v).schedule = s.schedule := rfl
@[simp] theorem State.withRegs_byteAt (s : State) (v : Vector Byte 16) (a : Nat) : (s.withRegs v).byteAt a = s.byteAt a := rfl
@[simp] theorem State.withRegs_pixel (s : State) (v : Vector Byte 16) (r : Fin 32) (c : Fin 64) :
    (s.withRegs v).pixel r c = s.pixel r c := rfl

/-- A load of `V0` to `V[n-1]` reads those bytes as far as the memory reaches, and changes only those registers
(R157, R155). -/
theorem forEach_loadReg (s : State) (n : Nat) (hn : n ≤ 16) :
    ∃ v, (forEach loadReg (List.range n) s).1 = s.withRegs v ∧
      (∀ r : Reg, v.get r = if r.val < inRange s n then s.byteAt (effAddr s r.val) else s.reg r) ∧
      (forEach loadReg (List.range n) s).2 =
        if s.i.toNat + n ≤ 0x1000 ∨ n = 0 then none
        else some (.addressOutOfRange (BitVec.ofNat 16 (effAddr s (0x1000 - s.i.toNat)))) := by
  induction n with
  | zero => exact ⟨s.v, rfl, fun r => by simp [inRange, State.reg], by simp⟩
  | succ n ih =>
    obtain ⟨v, h1, h2, h3⟩ := ih (by omega)
    rw [List.range_succ]
    rcases hr : forEach loadReg (List.range n) s with ⟨r1, r2⟩
    rw [hr] at h1 h3
    simp only at h1 h3
    subst h1
    by_cases hin : s.i.toNat + n ≤ 0x1000 ∨ n = 0
    · rw [if_pos hin] at h3
      subst h3
      rw [forEach_snoc_none hr]
      have hn0 : inRange s n = n := by unfold inRange; omega
      have hl : (loopReg n).val = n := by simp [loopReg]; omega
      by_cases hlt : s.i.toNat + n < 0x1000
      · have hread : memRead (s.withRegs v) (effAddr (s.withRegs v) n) = .ok (s.byteAt (effAddr s n)) := memRead_ok hlt
        have hstep : loadReg n (s.withRegs v) = .ok ((s.withRegs v).setReg (loopReg n) (s.byteAt (effAddr s n))) := by
          rw [loadReg, hread]
        have hn' : inRange s (n + 1) = n + 1 := by unfold inRange; omega
        refine ⟨((s.withRegs v).setReg (loopReg n) (s.byteAt (effAddr s n))).v,
          by rw [forEach_cons_ok hstep]; rfl, fun r => ?_, ?_⟩
        · refine (State.setReg_reg (s.withRegs v) (loopReg n) (s.byteAt (effAddr s n)) r).trans ?_
          rw [hn']
          by_cases hrn : r = loopReg n
          · subst hrn; rw [if_pos rfl, if_pos (by omega), hl]
          · have : r.val ≠ n := fun h => hrn (Fin.ext (h.trans hl.symm))
            rw [if_neg hrn]
            refine (h2 r).trans ?_
            rw [hn0]
            by_cases hb : r.val < n
            · rw [if_pos hb, if_pos (by omega)]
            · rw [if_neg hb, if_neg (by omega)]
        · rw [forEach_cons_ok hstep, if_pos (by omega)]; rfl
      · have hread : memRead (s.withRegs v) (effAddr (s.withRegs v) n) =
            .error (.addressOutOfRange (BitVec.ofNat 16 (effAddr s n))) := memRead_error (by simp only [effAddr, State.withRegs]; omega)
        have hstep : loadReg n (s.withRegs v) = .error (.addressOutOfRange (BitVec.ofNat 16 (effAddr s n))) := by
          rw [loadReg, hread]
        refine ⟨v, by rw [forEach_cons_error hstep], fun r => ?_, ?_⟩
        · have hn' : inRange s (n + 1) = n := by unfold inRange; omega
          rw [h2, hn0, hn']
        · rw [forEach_cons_error hstep, if_neg (by omega)]
          simp only [effAddr]
          congr 3
          omega
    · rw [if_neg hin] at h3
      subst h3
      rw [forEach_snoc_some hr]
      refine ⟨v, rfl, fun r => ?_, by rw [if_neg (by omega)]⟩
      have hn' : inRange s (n + 1) = inRange s n := by unfold inRange; omega
      rw [h2, hn']

/-! ### Ending an instruction -/

@[simp] theorem commit_done (s : State) (d : Directive) : commit (.done s d) = .next (s.applyDirective d) := rfl

@[simp] theorem commit_raised (s : State) (f : Fault) : commit (.raised s f) = .next (s.raise f) := rfl

end Sys2Proof.Machine
end

