-- ==== Sys2Proof/Laws/Meanings.lean ====
section
/-! SUPPORT. What `exec` answers for each instruction, with the quirk parameters at their decided values (R14) and the
directive applied. Proofs about instructions start here and unfold no meaning. -/

namespace Sys2Proof.Machine

/-! ### Instructions with one outcome -/

theorem exec_cls (s : State) :
    exec .cls s = .next (s.clearDisplay.setPc (s.pc + 2)) := rfl

theorem exec_jp (nnn : BitVec 12) (s : State) :
    exec (.jp nnn) s = .next (s.setPc (zextNNN nnn)) := rfl

theorem exec_jpV0 (nnn : BitVec 12) (s : State) :
    exec (.jpV0 nnn) s = .next (s.setPc (zextNNN nnn + zextByte (s.reg 0))) := rfl

theorem exec_seImm (x : Reg) (nn : Byte) (s : State) :
    exec (.seImm x nn) s = .next (s.applyDirective (skipIf (s.reg x == nn))) := rfl

theorem exec_sneImm (x : Reg) (nn : Byte) (s : State) :
    exec (.sneImm x nn) s = .next (s.applyDirective (skipIf (s.reg x != nn))) := rfl

theorem exec_seReg (x y : Reg) (s : State) :
    exec (.seReg x y) s = .next (s.applyDirective (skipIf (s.reg x == s.reg y))) := rfl

theorem exec_sneReg (x y : Reg) (s : State) :
    exec (.sneReg x y) s = .next (s.applyDirective (skipIf (s.reg x != s.reg y))) := rfl

theorem exec_ldImm (x : Reg) (nn : Byte) (s : State) :
    exec (.ldImm x nn) s = .next ((s.setReg x nn).setPc (s.pc + 2)) := rfl

theorem exec_addImm (x : Reg) (nn : Byte) (s : State) :
    exec (.addImm x nn) s = .next ((s.setReg x (s.reg x + nn)).setPc (s.pc + 2)) := rfl

theorem exec_ldReg (x y : Reg) (s : State) :
    exec (.ldReg x y) s = .next ((s.setReg x (s.reg y)).setPc (s.pc + 2)) := rfl

theorem exec_orReg (x y : Reg) (s : State) :
    exec (.orReg x y) s = .next ((s.setReg x (s.reg x ||| s.reg y)).setPc (s.pc + 2)) := rfl

theorem exec_andReg (x y : Reg) (s : State) :
    exec (.andReg x y) s = .next ((s.setReg x (s.reg x &&& s.reg y)).setPc (s.pc + 2)) := rfl

theorem exec_xorReg (x y : Reg) (s : State) :
    exec (.xorReg x y) s = .next ((s.setReg x (s.reg x ^^^ s.reg y)).setPc (s.pc + 2)) := rfl

theorem exec_addReg (x y : Reg) (s : State) :
    exec (.addReg x y) s = .next ((s.setResult x (s.reg x + s.reg y) (carryOut (s.reg x) (s.reg y))).setPc (s.pc + 2)) := rfl

theorem exec_subReg (x y : Reg) (s : State) :
    exec (.subReg x y) s = .next ((s.setResult x (s.reg x - s.reg y) (noBorrow (s.reg x) (s.reg y))).setPc (s.pc + 2)) := rfl

theorem exec_subnReg (x y : Reg) (s : State) :
    exec (.subnReg x y) s = .next ((s.setResult x (s.reg y - s.reg x) (noBorrow (s.reg y) (s.reg x))).setPc (s.pc + 2)) := rfl

theorem exec_shr (x y : Reg) (s : State) :
    exec (.shr x y) s = .next ((s.setResult x (s.reg x >>> 1) (shrOut (s.reg x))).setPc (s.pc + 2)) := rfl

theorem exec_shl (x y : Reg) (s : State) :
    exec (.shl x y) s = .next ((s.setResult x (s.reg x <<< 1) (shlOut (s.reg x))).setPc (s.pc + 2)) := rfl

theorem exec_ldI (nnn : BitVec 12) (s : State) :
    exec (.ldI nnn) s = .next ((s.setI (zextNNN nnn)).setPc (s.pc + 2)) := rfl

theorem exec_rnd (x : Reg) (nn : Byte) (s : State) :
    exec (.rnd x nn) s = .next (((s.setRng (getByte s.rng).2).setReg x ((getByte s.rng).1 &&& nn)).setPc (s.pc + 2)) := rfl

theorem exec_ldVxDt (x : Reg) (s : State) :
    exec (.ldVxDt x) s = .next ((s.setReg x s.dt).setPc (s.pc + 2)) := rfl

theorem exec_ldDtVx (x : Reg) (s : State) :
    exec (.ldDtVx x) s = .next ((s.setDt (s.reg x)).setPc (s.pc + 2)) := rfl

theorem exec_ldStVx (x : Reg) (s : State) :
    exec (.ldStVx x) s = .next ((s.setSt (s.reg x)).setPc (s.pc + 2)) := rfl

theorem exec_addI (x : Reg) (s : State) :
    exec (.addI x) s = .next ((s.setI (s.i + zextByte (s.reg x))).setPc (s.pc + 2)) := rfl

theorem exec_ldF (x : Reg) (s : State) :
    exec (.ldF x) s = .next ((s.setI (fontAddr s (s.reg x))).setPc (s.pc + 2)) := rfl

/-! ### Instructions that can raise, or wait -/

theorem exec_call (nnn : BitVec 12) (s : State) (h : s.sp.val < 16) :
    exec (.call nnn) s =
      .next ((s.setStack (s.stack.set s.sp.val (s.pc + 2) h) ⟨s.sp.val + 1, by omega⟩).setPc (zextNNN nnn)) := by
  change execCall nnn s = _
  simp only [execCall, push_ok h, commit_done, State.applyDirective]

theorem exec_call_full (nnn : BitVec 12) (s : State) (h : ¬s.sp.val < 16) :
    exec (.call nnn) s = .next (s.raise .stackOverflow) := by
  change execCall nnn s = _
  simp only [execCall, push_full h, commit_raised]

theorem exec_ret (s : State) (h : 0 < s.sp.val) :
    exec .ret s =
      .next ((s.setStack s.stack ⟨s.sp.val - 1, by omega⟩).setPc (s.stack[s.sp.val - 1]'(by omega))) := by
  change execRet s = _
  simp only [execRet, pop_ok h, commit_done, State.applyDirective]

theorem exec_ret_empty (s : State) (h : ¬0 < s.sp.val) : exec .ret s = .next (s.raise .stackUnderflow) := by
  change execRet s = _
  simp only [execRet, pop_empty h, commit_raised]

theorem exec_skp (x : Reg) (s : State) (h : (s.reg x).toNat < 16) :
    exec (.skp x) s = .next (s.applyDirective (skipIf (s.keyDown (s.reg x).toNat))) := by
  change execSkp x s = _
  simp [execSkp, keySkip, Config.numKeys, h]

theorem exec_skp_fault (x : Reg) (s : State) (h : ¬(s.reg x).toNat < 16) :
    exec (.skp x) s = .next (s.raise (.keyIndexOutOfRange (s.reg x))) := by
  change execSkp x s = _
  simp [execSkp, keySkip, Config.numKeys, h]

theorem exec_sknp (x : Reg) (s : State) (h : (s.reg x).toNat < 16) :
    exec (.sknp x) s = .next (s.applyDirective (skipIf (!s.keyDown (s.reg x).toNat))) := by
  change execSknp x s = _
  simp [execSknp, keySkip, Config.numKeys, h]

theorem exec_sknp_fault (x : Reg) (s : State) (h : ¬(s.reg x).toNat < 16) :
    exec (.sknp x) s = .next (s.raise (.keyIndexOutOfRange (s.reg x))) := by
  change execSknp x s = _
  simp [execSknp, keySkip, Config.numKeys, h]

/-- `FX0A` waits exactly when no key is held (R192). -/
theorem heldKey_none {s : State} : heldKey .levelLowest s = none ↔ ∀ k < 16, s.keyDown k = false := by
  simp [heldKey, Config.numKeys]

theorem exec_ldVxK_wait (x : Reg) (s : State) (h : heldKey .levelLowest s = none) : exec (.ldVxK x) s = .next s := by
  have h' : heldKey Quirks.decided.keyWait s = none := h
  change execLdVxK x s = _
  simp only [execLdVxK, h', commit_done, State.applyDirective]

theorem exec_ldVxK (x : Reg) (s : State) (k : Nat) (h : heldKey .levelLowest s = some k) :
    exec (.ldVxK x) s = .next ((s.setReg x (BitVec.ofNat 8 k)).setPc (s.pc + 2)) := by
  have h' : heldKey Quirks.decided.keyWait s = some k := h
  change execLdVxK x s = _
  simp only [execLdVxK, h', commit_done, State.applyDirective]; rfl

/-! ### Instructions that loop over memory -/

/-- The end of a dump, load or BCD store: the loop's state with the next instruction, or with the loop's fault. -/
def endState (r : State × Option Fault) : State :=
  match r.2 with
  | none => r.1.setPc (r.1.pc + 2)
  | some f => r.1.raise f

theorem exec_ldB (x : Reg) (s : State) :
    exec (.ldB x) s = .next (endState (forEach (storeDigit (s.reg x)) (List.range 3) s)) := by
  change execLdB x s = _
  simp only [execLdB]
  rcases forEach (storeDigit (s.reg x)) (List.range 3) s with ⟨t, _ | f⟩ <;> rfl

theorem exec_storeRegs (x : Reg) (s : State) :
    exec (.storeRegs x) s = .next (endState (forEach storeReg (List.range (x.val + 1)) s)) := by
  change execStoreRegs x s = _
  simp only [execStoreRegs]
  rcases forEach storeReg (List.range (x.val + 1)) s with ⟨t, _ | f⟩ <;> rfl

theorem exec_loadRegs (x : Reg) (s : State) :
    exec (.loadRegs x) s = .next (endState (forEach loadReg (List.range (x.val + 1)) s)) := by
  change execLoadRegs x s = _
  simp only [execLoadRegs]
  rcases forEach loadReg (List.range (x.val + 1)) s with ⟨t, _ | f⟩ <;> rfl

/-- The rows of a `DXYN`, with the collision so far. -/
def sprite (x y : Reg) (n : BitVec 4) (s : State) : (State × Bool) × Option Fault :=
  forEach (drawSpriteRow (s.reg x).toNat (s.reg y).toNat) (List.range n.toNat) (s, false)

theorem exec_drw (x y : Reg) (n : BitVec 4) (s : State) :
    exec (.drw x y n) s =
      .next (match (sprite x y n s).2 with
        | none => ((sprite x y n s).1.1.setFlag (sprite x y n s).1.2).setPc ((sprite x y n s).1.1.pc + 2)
        | some f => (sprite x y n s).1.1.raise f) := by
  change execDrw x y n s = _
  simp only [execDrw, sprite]
  rcases forEach (drawSpriteRow (s.reg x).toNat (s.reg y).toNat) (List.range n.toNat) (s, false) with ⟨⟨t, c⟩, _ | f⟩ <;> rfl

/-- `exec` answers a next state for every instruction in every state (R17, R230). -/
theorem exec_next (i : Instr) (s : State) : ∃ t, exec i s = .next t := by
  cases i with
  | call nnn =>
    by_cases h : s.sp.val < 16
    · exact ⟨_, exec_call nnn s h⟩
    · exact ⟨_, exec_call_full nnn s h⟩
  | ret =>
    by_cases h : 0 < s.sp.val
    · exact ⟨_, exec_ret s h⟩
    · exact ⟨_, exec_ret_empty s h⟩
  | skp x =>
    by_cases h : (s.reg x).toNat < 16
    · exact ⟨_, exec_skp x s h⟩
    · exact ⟨_, exec_skp_fault x s h⟩
  | sknp x =>
    by_cases h : (s.reg x).toNat < 16
    · exact ⟨_, exec_sknp x s h⟩
    · exact ⟨_, exec_sknp_fault x s h⟩
  | ldVxK x =>
    cases h : heldKey .levelLowest s with
    | none => exact ⟨_, exec_ldVxK_wait x s h⟩
    | some k => exact ⟨_, exec_ldVxK x s k h⟩
  | ldB x => exact ⟨_, exec_ldB x s⟩
  | storeRegs x => exact ⟨_, exec_storeRegs x s⟩
  | loadRegs x => exact ⟨_, exec_loadRegs x s⟩
  | drw x y n => exact ⟨_, exec_drw x y n s⟩
  | cls => exact ⟨_, exec_cls s⟩
  | jp nnn => exact ⟨_, exec_jp nnn s⟩
  | jpV0 nnn => exact ⟨_, exec_jpV0 nnn s⟩
  | seImm x nn => exact ⟨_, exec_seImm x nn s⟩
  | sneImm x nn => exact ⟨_, exec_sneImm x nn s⟩
  | seReg x y => exact ⟨_, exec_seReg x y s⟩
  | sneReg x y => exact ⟨_, exec_sneReg x y s⟩
  | ldImm x nn => exact ⟨_, exec_ldImm x nn s⟩
  | addImm x nn => exact ⟨_, exec_addImm x nn s⟩
  | ldReg x y => exact ⟨_, exec_ldReg x y s⟩
  | orReg x y => exact ⟨_, exec_orReg x y s⟩
  | andReg x y => exact ⟨_, exec_andReg x y s⟩
  | xorReg x y => exact ⟨_, exec_xorReg x y s⟩
  | addReg x y => exact ⟨_, exec_addReg x y s⟩
  | subReg x y => exact ⟨_, exec_subReg x y s⟩
  | subnReg x y => exact ⟨_, exec_subnReg x y s⟩
  | shr x y => exact ⟨_, exec_shr x y s⟩
  | shl x y => exact ⟨_, exec_shl x y s⟩
  | ldI nnn => exact ⟨_, exec_ldI nnn s⟩
  | rnd x nn => exact ⟨_, exec_rnd x nn s⟩
  | ldVxDt x => exact ⟨_, exec_ldVxDt x s⟩
  | ldDtVx x => exact ⟨_, exec_ldDtVx x s⟩
  | ldStVx x => exact ⟨_, exec_ldStVx x s⟩
  | addI x => exact ⟨_, exec_addI x s⟩
  | ldF x => exact ⟨_, exec_ldF x s⟩

end Sys2Proof.Machine
end

