-- ==== Sys2Proof/Laws/Units.lean ====
section
/-! SUPPORT. One lemma for each operation of the display, the timers, the generator, the keys and the schedule. -/

namespace Sys2Proof.Machine

/-! ### Display -/

/-- One turn of `Draw` on the pixels of the row: only the pixel of its column changes, by XOR (R172). -/
theorem drawBit_pixels (x : Nat) (b : Byte) (row : BitVec 64 × Bool) (k c : Nat) :
    (drawBit x b row k).1.getLsbD c = (row.1.getLsbD c ^^ (c == (x + k) % 64 && b.getLsbD (7 - k))) := by
  have hcol : (x + k) % 64 < 64 := Nat.mod_lt _ (by decide)
  simp only [drawBit, Config.displayWidth]
  cases b.getLsbD (7 - k) with
  | false => simp
  | true =>
    simp only [if_true, Bool.and_true, BitVec.getLsbD_xor, BitVec.getLsbD_twoPow, hcol, decide_true, Bool.true_and]
    rw [beq_eq_decide]
    simp only [eq_comm]

/-- One turn of `Draw` on the collision: a set pixel that meets a set bit (R172). -/
theorem drawBit_collided (x : Nat) (b : Byte) (row : BitVec 64 × Bool) (k : Nat) :
    (drawBit x b row k).2 = (row.2 || (row.1.getLsbD ((x + k) % 64) && b.getLsbD (7 - k))) := rfl

/-- `Draw` changes only the pixels of its row (R172). -/
theorem drawRow_other_row (x y : Nat) (b : Byte) (g : Grid) (r : Fin 32) (h : r ≠ rowIndex y) :
    (drawRow x y b g).1.get r = g.get r := by
  have h' : (rowIndex y).val ≠ r.val := fun e => h (Fin.ext e.symm)
  simp only [drawRow, Vector.get_eq_getElem, Vector.getElem_set, h', if_false]

/-- `Draw` on its own row: the loop over the eight bits (R172). -/
theorem drawRow_own_row (x y : Nat) (b : Byte) (g : Grid) :
    (drawRow x y b g).1.get (rowIndex y) = ((List.range 8).foldl (drawBit x b) (g.get (rowIndex y), false)).1 := by
  simp only [drawRow, Vector.get_eq_getElem, Vector.getElem_set, if_true]

/-- One turn of `DXYN`'s loop whose byte is in range (R176). -/
theorem drawSpriteRow_ok {x y k : Nat} {s : State × Bool} (h : effAddr s.1 k < 0x1000) :
    drawSpriteRow x y k s =
      .ok (s.1.setPix (drawRow x (y + k) (s.1.byteAt (effAddr s.1 k)) s.1.pix).1,
        s.2 || (drawRow x (y + k) (s.1.byteAt (effAddr s.1 k)) s.1.pix).2) := by
  rw [drawSpriteRow, memRead_ok h]

/-- One turn of `DXYN`'s loop whose byte is out of range (R176). -/
theorem drawSpriteRow_error {x y k : Nat} {s : State × Bool} (h : 0x1000 ≤ effAddr s.1 k) :
    drawSpriteRow x y k s = .error (.addressOutOfRange (BitVec.ofNat 16 (effAddr s.1 k))) := by
  rw [drawSpriteRow, memRead_error h]

@[simp] theorem clearDisplay_pixel (s : State) (row : Fin 32) (col : Fin 64) :
    s.clearDisplay.pixel row col = false := by
  simp [State.clearDisplay, State.pixel, blankGrid, Vector.get_eq_getElem]

/-! ### Keys -/

/-- The held key that `FX0A` takes is the lowest one (R192). -/
theorem heldKey_some {s : State} {k : Nat} :
    heldKey .levelLowest s = some k ↔ k < 16 ∧ s.keyDown k = true ∧ ∀ j < k, s.keyDown j = false := by
  simp only [heldKey, Config.numKeys, List.find?_range_eq_some, List.mem_range]
  constructor
  · rintro ⟨h1, h2, h3⟩
    exact ⟨h2, h1, fun j hj => by simpa using h3 j hj⟩
  · rintro ⟨h1, h2, h3⟩
    exact ⟨h2, h1, fun j hj => by simpa using h3 j hj⟩

/-! ### Timers -/

/-- A count-down stops at 0 (R33). -/
theorem countDown_toNat (t : Byte) : (countDown t).toNat = t.toNat - 1 := by
  unfold countDown
  split
  · next h => simp [h]
  · next h =>
    have : t.toNat ≠ 0 := fun e => h (BitVec.eq_of_toNat_eq e)
    rw [BitVec.toNat_sub_of_le (by rw [BitVec.le_def]; simp; omega)]
    rfl

/-! ### The generator -/

/-- The bits of the next generator state: the feedback bit on top, the others one place down (R201). -/
theorem nextRng_getLsbD (r : Word) (k : Nat) :
    (nextRng r).getLsbD k = if k = 15 then feedbackBit r else r.getLsbD (k + 1) := by
  unfold nextRng
  by_cases hk : k < 16
  · interval_cases k <;> simp
  · rw [BitVec.getLsbD_of_ge _ _ (by omega), if_neg (by omega), BitVec.getLsbD_of_ge _ _ (by omega)]

theorem nextRng_getElem (r : Word) (k : Nat) (h : k < 16) :
    (nextRng r)[k] = if k = 15 then feedbackBit r else r.getLsbD (k + 1) :=
  (BitVec.getLsbD_eq_getElem h).symm.trans (nextRng_getLsbD r k)

/-- Advancing by one more step (R201). -/
theorem advanceRng_eq_iterate (n : Nat) (r : Word) : advanceRng n r = nextRng^[n] r := by
  induction n generalizing r with
  | zero => rfl
  | succ n ih => exact ih (nextRng r)

/-- Collecting bits advances the generator once for each (R202). -/
theorem collectBits_rng (n : Nat) (acc : Byte) (r : Word) : (collectBits n acc r).2 = nextRng^[n] r := by
  induction n generalizing acc r with
  | zero => rfl
  | succ n ih => exact ih _ (nextRng r)

/-! ### The buzzer and Reset's arguments -/

theorem buzzer_iff (s : State) : s.buzzer = true ↔ 0 < s.st.toNat := decide_eq_true_iff

theorem font_length : Config.font.length = 80 := by decide

theorem fontFits_iff (a : ResetArgs) : a.fontFits = true ↔ a.fontBase.toNat + 80 ≤ 0x1000 := decide_eq_true_iff

theorem romFits_iff (a : ResetArgs) : a.romFits = true ↔ a.pcReset.toNat + a.rom.length ≤ 0x1000 := decide_eq_true_iff

theorem wellFormed_iff (a : ResetArgs) :
    a.wellFormed = true ↔
      a.fontBase.toNat + 80 ≤ 0x1000 ∧ a.pcReset.toNat + a.rom.length ≤ 0x1000 ∧ a.seed ≠ 0 := by
  simp only [ResetArgs.wellFormed, Bool.and_eq_true, fontFits_iff, romFits_iff, bne_iff_ne, and_assoc]

/-! ### Reset's load -/

/-- Loading a byte string writes it as far as the memory reaches; the first address outside raises (R260, R263). -/
theorem loadBytes_spec (bs : List Byte) (a : Nat) (s : State) :
    ∃ m, (loadBytes bs a s).1 = s.setMem m ∧
      (∀ c, Memory.read m c =
        if a ≤ c ∧ c < a + bs.length ∧ c < 0x1000 then bs.getD (c - a) 0 else s.byteAt c) ∧
      (loadBytes bs a s).2 =
        if a + bs.length ≤ 0x1000 ∨ bs = [] then none else some (.addressOutOfRange (BitVec.ofNat 16 (max a 0x1000))) := by
  induction bs generalizing a s with
  | nil => exact ⟨s.mem, rfl, fun c => by rw [if_neg (by simp; omega)]; rfl, by simp [loadBytes]⟩
  | cons b bs ih =>
    by_cases ha : a < 0x1000
    · obtain ⟨m, h1, h2, h3⟩ := ih (a + 1) (s.setMem (Memory.write s.mem a b))
      simp only [loadBytes, memWrite_ok ha]
      refine ⟨m, h1, fun c => ?_, h3.trans ?_⟩
      · rw [h2, byteAt_write]
        simp only [List.length_cons]
        by_cases hc : a ≤ c ∧ c < a + (bs.length + 1) ∧ c < 0x1000
        · rw [if_pos hc]
          by_cases hca : c = a
          · subst hca; rw [if_neg (by omega), if_pos rfl]; simp
          · obtain ⟨d, rfl⟩ : ∃ d, c = a + 1 + d := ⟨c - (a + 1), by omega⟩
            rw [if_pos (by omega), show a + 1 + d - a = d + 1 by omega, show a + 1 + d - (a + 1) = d by omega]
            rfl
        · rw [if_neg hc, if_neg (by omega), if_neg (by omega)]
      · simp only [List.length_cons]
        by_cases hfit : a + (bs.length + 1) ≤ 0x1000
        · rw [if_pos (by omega), if_pos (by omega)]
        · have hne : bs ≠ [] := by rintro rfl; simp at hfit; omega
          rw [if_neg (by simp [hne]; omega), if_neg (by simp; omega), show max (a + 1) 0x1000 = max a 0x1000 by omega]
    · simp only [loadBytes, memWrite_error (Nat.not_lt.1 ha)]
      refine ⟨s.mem, rfl, fun c => ?_, ?_⟩
      · rw [if_neg (by omega)]; rfl
      · rw [if_neg (by simp; omega), show max a 0x1000 = a by omega]

theorem pair_of_snd {α β : Type} {p : α × β} {b : β} (h : p.2 = b) : p = (p.1, b) := Prod.ext rfl h

/-- The font raises exactly where it does not fit (R263). -/
theorem loadFont_raises (a : ResetArgs) (s : State) :
    (loadBytes Config.font a.fontBase.toNat s).2 =
      if a.fontFits then none else some (.addressOutOfRange (BitVec.ofNat 16 (max a.fontBase.toNat 0x1000))) := by
  obtain ⟨_, _, _, h⟩ := loadBytes_spec Config.font a.fontBase.toNat s
  have hne : Config.font ≠ [] := by decide
  simpa only [hne, or_false, font_length, ← fontFits_iff] using h

/-- What a Reset leaves where the font does not fit (R263). -/
theorem resetEvent_fontMisfit {a : ResetArgs} (h : a.fontFits = false) (s : State) :
    resetEvent a s = (loadBytes Config.font a.fontBase.toNat (zeroed s)).1.raise
      (.addressOutOfRange (BitVec.ofNat 16 (max a.fontBase.toNat 0x1000))) := by
  have h2 := loadFont_raises a (zeroed s)
  rw [h, if_neg Bool.false_ne_true] at h2
  rw [resetEvent, pair_of_snd h2]

/-- Where the font fits, Reset goes on to the ROM (R260). -/
theorem resetEvent_fontFits {a : ResetArgs} (h : a.fontFits = true) (s : State) :
    resetEvent a s = loadRom a (loadBytes Config.font a.fontBase.toNat (zeroed s)).1 := by
  have h2 := loadFont_raises a (zeroed s)
  rw [h, if_pos rfl] at h2
  rw [resetEvent, pair_of_snd h2]

/-- What a Reset leaves where the ROM does not fit, be it empty or not (R263). -/
theorem resetEvent_romMisfit {a : ResetArgs} (hf : a.fontFits = true) (h : a.romFits = false) (s : State) :
    resetEvent a s =
      (loadBytes a.rom a.pcReset.toNat (loadBytes Config.font a.fontBase.toNat (zeroed s)).1).1.raise
        (.addressOutOfRange (BitVec.ofNat 16 (max a.pcReset.toNat 0x1000))) := by
  obtain ⟨_, _, _, h2⟩ :=
    loadBytes_spec a.rom a.pcReset.toNat (loadBytes Config.font a.fontBase.toNat (zeroed s)).1
  have hr : ¬a.pcReset.toNat + a.rom.length ≤ 0x1000 := by rw [← romFits_iff, h]; exact Bool.false_ne_true
  rw [resetEvent_fontFits hf]
  by_cases he : a.rom = []
  · have hp : max a.pcReset.toNat 0x1000 = a.pcReset.toNat := by simp only [he, List.length_nil] at hr; omega
    rw [if_pos (.inr he)] at h2
    rw [loadRom, pair_of_snd h2, hp, h, BitVec.ofNat_toNat, BitVec.setWidth_eq]
    rfl
  · rw [if_neg (not_or.2 ⟨hr, he⟩)] at h2
    rw [loadRom, pair_of_snd h2]

/-- Where font and ROM fit, the load succeeds and the core starts, or latches a zero seed (R260, R263). -/
theorem resetEvent_fits {a : ResetArgs} (hf : a.fontFits = true) (h : a.romFits = true) (s : State) :
    resetEvent a s =
      startCore a (loadBytes a.rom a.pcReset.toNat (loadBytes Config.font a.fontBase.toNat (zeroed s)).1).1 := by
  obtain ⟨_, _, _, h2⟩ :=
    loadBytes_spec a.rom a.pcReset.toNat (loadBytes Config.font a.fontBase.toNat (zeroed s)).1
  rw [if_pos (.inl ((romFits_iff a).1 h))] at h2
  rw [resetEvent_fontFits hf, loadRom, pair_of_snd h2, h]
  rfl

/-! ### Events -/

theorem step_cpuCycle {s : State} {k : Word} {es : List Event} (h : s.schedule = .cpuCycle k :: es) :
    step s = cpuCycle k (s.setSchedule es) := by
  simp only [step, stepEvent, nextEvent, h, runEvent]

theorem step_idle {s : State} (h : s.schedule = []) : step s = cpuCycle s.keys s := by
  have hs : s.setSchedule [] = s := by cases s; simp_all [State.setSchedule]
  simp only [step, stepEvent, nextEvent, h, runEvent, hs]

theorem step_timerTick {s : State} {es : List Event} (h : s.schedule = .timerTick :: es) :
    step s = .next (timerTick (s.setSchedule es)) := by
  simp only [step, stepEvent, nextEvent, h, runEvent]

theorem step_reset {s : State} {a : ResetArgs} {es : List Event} (h : s.schedule = .reset a :: es) :
    step s = .next (resetEvent a (s.setSchedule es)) := by
  simp only [step, stepEvent, nextEvent, h, runEvent]

theorem cpuCycle_frozen {s : State} {f : Fault} (h : s.fault = some f) (k : Word) : cpuCycle k s = .next s := by
  simp only [cpuCycle, h]

theorem cpuCycle_runs {s : State} (h : s.fault = none) (k : Word) : cpuCycle k s = runInstruction (s.setKeys k) := by
  simp only [cpuCycle, h]

/-- The fetch of an instruction that lies inside the memory (R54). -/
theorem fetch_ok {s : State} (h : s.pc.toNat + 1 < 0x1000) :
    fetch s = .ok (joinBytes (s.byteAt s.pc.toNat) (s.byteAt (s.pc.toNat + 1))) := by
  rw [fetch, memRead_ok (by omega), memRead_ok h]

/-- A fetch that succeeds is inside the memory (R57). -/
theorem fetch_bound {s : State} {op : Word} (h : fetch s = .ok op) : s.pc.toNat + 1 < 0x1000 := by
  by_contra hc
  rw [fetch] at h
  by_cases h0 : s.pc.toNat < 0x1000
  · rw [memRead_ok h0, memRead_error (by omega)] at h; cases h
  · rw [memRead_error (by omega)] at h; cases h

/-- What one instruction comes to: the fetch faults, the word is illegal, or the decoded instruction runs (R232). -/
theorem runInstruction_cases (s : State) :
    (∃ f, fetch s = .error f ∧ runInstruction s = .next (s.raise f)) ∨
    (∃ op e, fetch s = .ok op ∧ decode op = .error e ∧ runInstruction s = .next (s.raise (.unknownOpcode op))) ∨
    ∃ op i, fetch s = .ok op ∧ decode op = .ok i ∧ runInstruction s = exec i s := by
  cases hf : fetch s with
  | error f => exact .inl ⟨f, rfl, by simp only [runInstruction, hf, commit_raised]⟩
  | ok op =>
    cases hd : decode op with
    | error e => exact .inr (.inl ⟨op, e, rfl, hd, by simp only [runInstruction, hf, hd]; rfl⟩)
    | ok i => exact .inr (.inr ⟨op, i, rfl, hd, by simp only [runInstruction, hf, hd]⟩)

end Sys2Proof.Machine
end

