-- ==== Sys2Proof/Laws/Frame.lean ====
section
/-! SUPPORT. The terms of Safety.lean for the updates and loops that meanings are made of, one lemma each. -/

namespace Sys2Proof.Machine

/-! ### Skips -/

@[simp] theorem skip_pc (s : State) (c : Bool) :
    (s.applyDirective (skipIf c)).pc = if c then s.pc + 4 else s.pc + 2 := by
  cases c <;> rfl

/-- A skip changes nothing but `PC` (R25). -/
theorem skip_frame (s : State) (c : Bool) : Frame [] s (s.applyDirective (skipIf c)) := by
  intro p _
  cases c <;> cases p <;> simp [Keeps, skipIf, State.applyDirective]

/-! ### Results -/

/-- Writing a register and going to the next instruction. -/
theorem writesReg_setReg (s : State) (x : Reg) (b : Byte) : WritesReg s ((s.setReg x b).setPc (s.pc + 2)) x b := by
  refine ⟨by simp, fun r hr => ?_, rfl, fun p hp => ?_⟩
  · simp only [List.mem_singleton] at hr
    simp [hr]
  · cases p <;> simp_all [Keeps]

/-- Writing a result with its flag and going to the next instruction (R100). -/
theorem writesRegAndFlag_setResult (s : State) (x : Reg) (b : Byte) (f : Bool) :
    WritesRegAndFlag s ((s.setResult x b f).setPc (s.pc + 2)) x b f := by
  refine ⟨by simp [flagByte], fun h => by simp [h], fun r hr => ?_, rfl, fun p hp => ?_⟩
  · simp only [List.mem_cons, List.not_mem_nil, or_false, not_or] at hr
    simp [hr]
  · cases p <;> simp_all [Keeps, State.setResult, State.setFlag]

/-! ### Faults and loops -/

/-- Raising changes nothing but the latch (R230). -/
theorem raise_frame (s : State) (f : Fault) : Frame [.fault] s (s.raise f) := by
  intro p hp
  cases p <;> simp_all [Keeps]

/-- The rows of a sprite change nothing but the display (R176). -/
theorem sprite_setPix (x y : Reg) (n : BitVec 4) (s : State) : ∃ g, (sprite x y n s).1.1 = s.setPix g := by
  refine forEach_keeps (P := fun r : State × Bool => ∃ g, r.1 = s.setPix g) ?_ _ ⟨s.pix, rfl⟩
  rintro k ⟨r, c⟩ r' ⟨g, hg⟩ h
  simp only at hg
  subst hg
  by_cases hlt : effAddr (s.setPix g) k < 0x1000
  · rw [drawSpriteRow_ok (s := (s.setPix g, c)) hlt] at h
    cases h
    exact ⟨_, rfl⟩
  · rw [drawSpriteRow_error (s := (s.setPix g, c)) (Nat.not_lt.1 hlt)] at h
    cases h

/-- The rows of a sprite raise nothing but `AddressOutOfRange` (R229). -/
theorem sprite_raises {x y : Reg} {n : BitVec 4} {s : State} {f : Fault} (h : (sprite x y n s).2 = some f) :
    ∃ a, f = .addressOutOfRange a := by
  refine forEach_raises (Q := fun f => ∃ a, f = .addressOutOfRange a) ?_ _ h
  intro k s e he
  by_cases hlt : effAddr s.1 k < 0x1000
  · rw [drawSpriteRow_ok hlt] at he
    cases he
  · rw [drawSpriteRow_error (Nat.not_lt.1 hlt)] at he
    exact ⟨_, (Except.error.inj he).symm⟩

/-- A loop that commutes with an update of the state ends in the updated state, with the same fault. -/
theorem forEach_commutes {σ : Type} {f : Nat → σ → Except Fault σ} {g : σ → σ}
    (hf : ∀ k s, f k (g s) = (f k s).map g) (ks : List Nat) (s : σ) :
    forEach f ks (g s) = (g (forEach f ks s).1, (forEach f ks s).2) := by
  induction ks generalizing s with
  | nil => rfl
  | cons k ks ih =>
    rw [forEach_cons, forEach_cons, hf]
    cases f k s with
    | ok s' => exact ih s'
    | error e => rfl

end Sys2Proof.Machine
end

