-- ==== Sys2Proof/Laws/PerInstr.lean ====
section
/-! SUPPORT. Statements made of every instruction, one lemma per constructor (LAWS.json). -/

namespace Sys2Proof.Laws.TableRow

/-- The word of the instruction selects the instruction's row of the opcode map, and the row is one of the map (R75). -/
def Statement (i : Instr) : Prop := i.row ∈ opcodeTable ∧ i.row.selects (encode i) = true

/-- A masked word that equals the row's code selects the row. -/
theorem selects_of_masked {r : OpRow} {w c : Word} (hm : w &&& r.mask = c) (hc : c = r.code) : r.selects w = true := by
  simp [OpRow.selects, hm, hc]

theorem cls : Statement (.cls) :=
  ⟨by decide, by decide⟩

theorem ret : Statement (.ret) :=
  ⟨by decide, by decide⟩

theorem jp (nnn : BitVec 12) : Statement (.jp nnn) :=
  ⟨(by decide : Instr.row (.jp 0) ∈ opcodeTable), selects_of_masked (formNNN_masked _ _) rfl⟩

theorem call (nnn : BitVec 12) : Statement (.call nnn) :=
  ⟨(by decide : Instr.row (.call 0) ∈ opcodeTable), selects_of_masked (formNNN_masked _ _) rfl⟩

theorem seImm (x : Reg) (nn : Byte) : Statement (.seImm x nn) :=
  ⟨(by decide : Instr.row (.seImm 0 0) ∈ opcodeTable), selects_of_masked (formXNN_masked _ _ _) rfl⟩

theorem sneImm (x : Reg) (nn : Byte) : Statement (.sneImm x nn) :=
  ⟨(by decide : Instr.row (.sneImm 0 0) ∈ opcodeTable), selects_of_masked (formXNN_masked _ _ _) rfl⟩

theorem seReg (x y : Reg) : Statement (.seReg x y) :=
  ⟨(by decide : Instr.row (.seReg 0 0) ∈ opcodeTable), selects_of_masked (formXYN_masked_low _ _ _ _) rfl⟩

theorem ldImm (x : Reg) (nn : Byte) : Statement (.ldImm x nn) :=
  ⟨(by decide : Instr.row (.ldImm 0 0) ∈ opcodeTable), selects_of_masked (formXNN_masked _ _ _) rfl⟩

theorem addImm (x : Reg) (nn : Byte) : Statement (.addImm x nn) :=
  ⟨(by decide : Instr.row (.addImm 0 0) ∈ opcodeTable), selects_of_masked (formXNN_masked _ _ _) rfl⟩

theorem ldReg (x y : Reg) : Statement (.ldReg x y) :=
  ⟨(by decide : Instr.row (.ldReg 0 0) ∈ opcodeTable), selects_of_masked (formXYN_masked_low _ _ _ _) rfl⟩

theorem orReg (x y : Reg) : Statement (.orReg x y) :=
  ⟨(by decide : Instr.row (.orReg 0 0) ∈ opcodeTable), selects_of_masked (formXYN_masked_low _ _ _ _) rfl⟩

theorem andReg (x y : Reg) : Statement (.andReg x y) :=
  ⟨(by decide : Instr.row (.andReg 0 0) ∈ opcodeTable), selects_of_masked (formXYN_masked_low _ _ _ _) rfl⟩

theorem xorReg (x y : Reg) : Statement (.xorReg x y) :=
  ⟨(by decide : Instr.row (.xorReg 0 0) ∈ opcodeTable), selects_of_masked (formXYN_masked_low _ _ _ _) rfl⟩

theorem addReg (x y : Reg) : Statement (.addReg x y) :=
  ⟨(by decide : Instr.row (.addReg 0 0) ∈ opcodeTable), selects_of_masked (formXYN_masked_low _ _ _ _) rfl⟩

theorem subReg (x y : Reg) : Statement (.subReg x y) :=
  ⟨(by decide : Instr.row (.subReg 0 0) ∈ opcodeTable), selects_of_masked (formXYN_masked_low _ _ _ _) rfl⟩

theorem shr (x y : Reg) : Statement (.shr x y) :=
  ⟨(by decide : Instr.row (.shr 0 0) ∈ opcodeTable), selects_of_masked (formXYN_masked_low _ _ _ _) rfl⟩

theorem subnReg (x y : Reg) : Statement (.subnReg x y) :=
  ⟨(by decide : Instr.row (.subnReg 0 0) ∈ opcodeTable), selects_of_masked (formXYN_masked_low _ _ _ _) rfl⟩

theorem shl (x y : Reg) : Statement (.shl x y) :=
  ⟨(by decide : Instr.row (.shl 0 0) ∈ opcodeTable), selects_of_masked (formXYN_masked_low _ _ _ _) rfl⟩

theorem sneReg (x y : Reg) : Statement (.sneReg x y) :=
  ⟨(by decide : Instr.row (.sneReg 0 0) ∈ opcodeTable), selects_of_masked (formXYN_masked_low _ _ _ _) rfl⟩

theorem ldI (nnn : BitVec 12) : Statement (.ldI nnn) :=
  ⟨(by decide : Instr.row (.ldI 0) ∈ opcodeTable), selects_of_masked (formNNN_masked _ _) rfl⟩

theorem jpV0 (nnn : BitVec 12) : Statement (.jpV0 nnn) :=
  ⟨(by decide : Instr.row (.jpV0 0) ∈ opcodeTable), selects_of_masked (formNNN_masked _ _) rfl⟩

theorem rnd (x : Reg) (nn : Byte) : Statement (.rnd x nn) :=
  ⟨(by decide : Instr.row (.rnd 0 0) ∈ opcodeTable), selects_of_masked (formXNN_masked _ _ _) rfl⟩

theorem drw (x y : Reg) (n : BitVec 4) : Statement (.drw x y n) :=
  ⟨(by decide : Instr.row (.drw 0 0 0) ∈ opcodeTable), selects_of_masked (formXYN_masked _ _ _ _) rfl⟩

theorem skp (x : Reg) : Statement (.skp x) :=
  ⟨(by decide : Instr.row (.skp 0) ∈ opcodeTable), selects_of_masked (formX_masked _ _ _) rfl⟩

theorem sknp (x : Reg) : Statement (.sknp x) :=
  ⟨(by decide : Instr.row (.sknp 0) ∈ opcodeTable), selects_of_masked (formX_masked _ _ _) rfl⟩

theorem ldVxDt (x : Reg) : Statement (.ldVxDt x) :=
  ⟨(by decide : Instr.row (.ldVxDt 0) ∈ opcodeTable), selects_of_masked (formX_masked _ _ _) rfl⟩

theorem ldVxK (x : Reg) : Statement (.ldVxK x) :=
  ⟨(by decide : Instr.row (.ldVxK 0) ∈ opcodeTable), selects_of_masked (formX_masked _ _ _) rfl⟩

theorem ldDtVx (x : Reg) : Statement (.ldDtVx x) :=
  ⟨(by decide : Instr.row (.ldDtVx 0) ∈ opcodeTable), selects_of_masked (formX_masked _ _ _) rfl⟩

theorem ldStVx (x : Reg) : Statement (.ldStVx x) :=
  ⟨(by decide : Instr.row (.ldStVx 0) ∈ opcodeTable), selects_of_masked (formX_masked _ _ _) rfl⟩

theorem addI (x : Reg) : Statement (.addI x) :=
  ⟨(by decide : Instr.row (.addI 0) ∈ opcodeTable), selects_of_masked (formX_masked _ _ _) rfl⟩

theorem ldF (x : Reg) : Statement (.ldF x) :=
  ⟨(by decide : Instr.row (.ldF 0) ∈ opcodeTable), selects_of_masked (formX_masked _ _ _) rfl⟩

theorem ldB (x : Reg) : Statement (.ldB x) :=
  ⟨(by decide : Instr.row (.ldB 0) ∈ opcodeTable), selects_of_masked (formX_masked _ _ _) rfl⟩

theorem storeRegs (x : Reg) : Statement (.storeRegs x) :=
  ⟨(by decide : Instr.row (.storeRegs 0) ∈ opcodeTable), selects_of_masked (formX_masked _ _ _) rfl⟩

theorem loadRegs (x : Reg) : Statement (.loadRegs x) :=
  ⟨(by decide : Instr.row (.loadRegs 0) ∈ opcodeTable), selects_of_masked (formX_masked _ _ _) rfl⟩

end Sys2Proof.Laws.TableRow
end

