-- ==== Sys2Proof/Tests/Slice0.lean ====
section
/-! SUPPORT. Tests of one step each. Expected results are those of spec/95_test_vectors.md, or of the example in the rule
that the test names. Then, for each obligation with hypotheses, states and operands that meet them (`witness_...`). -/

namespace Sys2Proof.Tests

open Sys2Proof.Machine

/-! ### Helpers -/

/-- A small state: `PC` 0x200, nothing in memory, every register 0, the generator as after seed 1. -/
def base : State where
  v := Vector.replicate 16 0
  i := 0
  pc := 0x200
  stack := Vector.replicate 16 0
  sp := 0
  dt := 0
  st := 0
  rng := 0xB111
  fontBase := 0
  mem := []
  pix := Vector.replicate 32 0
  fault := none
  keys := 0
  schedule := []

/-- `base` with some registers set. -/
def regs (rs : List (Reg × Byte)) : State := rs.foldl (fun s r => s.setReg r.1 r.2) base

/-- A state with some bytes of memory set. -/
def bytes (bs : List (Nat × Byte)) (s : State) : State :=
  s.setMem (bs.foldl (fun m b => Memory.write m b.1 b.2) s.mem)

/-- The state after the instruction that a word stands for. -/
def ran (op : Word) (s : State) : State :=
  match decode op with
  | .error _ => s
  | .ok i =>
    match exec i s with
    | .next t => t
    | .fault _ => s
    | .refused _ => s

/-- The state after one step. -/
def stepped (s : State) : State :=
  match step s with
  | .next t => t
  | .fault _ => s
  | .refused _ => s

/-- `base` about to run one CpuCycle on a word at an address. -/
def atWord (pc op : Word) : State :=
  (bytes [(pc.toNat, highByte op), (pc.toNat + 1, lowByte op)] (base.setPc pc)).setSchedule [.cpuCycle 0]

/-- `base` about to be reset. -/
def resetting (a : ResetArgs) : State := base.setSchedule [.reset a]

/-! ### WellFormed: a word or a set of Reset arguments for each check, which the check refuses -/

/-- Section 2.1: one illegal word and more of each group of R81. -/
theorem test_illegal_words_are_refused :
    [0x0000, 0x00E1, 0x00FE, 0x0123, 0x5011, 0x8008, 0x800F, 0x9001].all (fun op => legalWord op == false) = true ∧
    [0xE000, 0xE09F, 0xF000, 0xF01F, 0xF075, 0xF085, 0xFFFF].all (fun op => legalWord op == false) = true := by decide

/-- R10, R263: `FONT_BASE + 80` may be 0x1000 and not more. -/
theorem test_font_that_does_not_fit_is_refused :
    { Config.resetArgs with fontBase := 0x0FB0 }.wellFormed = true ∧
    { Config.resetArgs with fontBase := 0x0FB1 }.wellFormed = false := by decide

/-- R12, R263: `PC_RESET + L` may be 0x1000 and not more. -/
theorem test_rom_that_does_not_fit_is_refused :
    { Config.resetArgs with pcReset := 0x0FFF, rom := [0x12] }.wellFormed = true ∧
    { Config.resetArgs with pcReset := 0x0FFF, rom := [0x12, 0x00] }.wellFormed = false := by decide

/-- R11, R263. -/
theorem test_zero_seed_is_refused : { Config.resetArgs with seed := 0 }.wellFormed = false := by decide

/-! ### Decode: words written out from the encodings of R75 (section 2.1 and the examples of the rules) -/

theorem test_decode_op_and_nnn :
    decode 0x00E0 = .ok .cls ∧ decode 0x00EE = .ok .ret ∧ decode 0x1ABC = .ok (.jp 0xABC) ∧
    decode 0x2FFF = .ok (.call 0xFFF) ∧ decode 0xA123 = .ok (.ldI 0x123) ∧ decode 0xB300 = .ok (.jpV0 0x300) := by decide

theorem test_decode_xnn :
    decode 0x3A7F = .ok (.seImm 0xA 0x7F) ∧ decode 0x4F00 = .ok (.sneImm 0xF 0x00) ∧
    decode 0x6C42 = .ok (.ldImm 0xC 0x42) ∧ decode 0x7003 = .ok (.addImm 0 0x03) ∧
    decode 0xC50F = .ok (.rnd 5 0x0F) := by decide

theorem test_decode_xy :
    decode 0x5AB0 = .ok (.seReg 0xA 0xB) ∧ decode 0x9120 = .ok (.sneReg 1 2) ∧ decode 0x8120 = .ok (.ldReg 1 2) ∧
    decode 0x8121 = .ok (.orReg 1 2) ∧ decode 0x8122 = .ok (.andReg 1 2) ∧ decode 0x8123 = .ok (.xorReg 1 2) ∧
    decode 0x8124 = .ok (.addReg 1 2) ∧ decode 0x8125 = .ok (.subReg 1 2) ∧ decode 0x8AB6 = .ok (.shr 0xA 0xB) ∧
    decode 0x8127 = .ok (.subnReg 1 2) ∧ decode 0x8FFE = .ok (.shl 0xF 0xF) ∧
    decode 0xDAB5 = .ok (.drw 0xA 0xB 5) := by decide

theorem test_decode_x :
    decode 0xE19E = .ok (.skp 1) ∧ decode 0xE1A1 = .ok (.sknp 1) ∧ decode 0xF107 = .ok (.ldVxDt 1) ∧
    decode 0xF30A = .ok (.ldVxK 3) ∧ decode 0xF115 = .ok (.ldDtVx 1) ∧ decode 0xF118 = .ok (.ldStVx 1) ∧
    decode 0xF21E = .ok (.addI 2) ∧ decode 0xF429 = .ok (.ldF 4) ∧ decode 0xF533 = .ok (.ldB 5) ∧
    decode 0xF355 = .ok (.storeRegs 3) ∧ decode 0xFE65 = .ok (.loadRegs 0xE) := by decide

/-- R54: the first byte is the high byte. -/
theorem test_decode_bytes :
    decodeBytes [0x60, 0x05, 0x70] = .ok (.ldImm 0 0x05, [0x70]) ∧ decodeBytes [0x60] = .error .truncated ∧
    encodeBytes (.ldImm 0 0x05) = [0x60, 0x05] ∧ decodeTableWord 16 0xA123 = some (.ldI 0x123) ∧
    decodeTableWord 16 0x0123 = none := by decide

/-! ### Arithmetic and logic (section 2.2) -/

theorem test_add_immediate :
    (ran 0x7003 (regs [(0, 5)])).reg 0 = 8 ∧ (ran 0x7001 (regs [(0, 0xFF), (15, 9)])).reg 0 = 0 ∧
    (ran 0x7001 (regs [(0, 0xFF), (15, 9)])).reg 15 = 9 ∧ (ran 0x7FFF (regs [(15, 1)])).reg 15 = 0 := by decide

theorem test_logic :
    (ran 0x8121 (regs [(1, 0xCC), (2, 0xAA), (15, 1)])).reg 1 = 0xEE ∧
    (ran 0x8122 (regs [(1, 0xCC), (2, 0xAA), (15, 1)])).reg 1 = 0x88 ∧
    (ran 0x8123 (regs [(1, 0xCC), (2, 0xAA), (15, 1)])).reg 1 = 0x66 ∧
    (ran 0x8123 (regs [(1, 0xCC), (2, 0xAA), (15, 1)])).reg 15 = 1 ∧
    (ran 0x8F21 (regs [(15, 0x0F), (2, 0xF0)])).reg 15 = 0xFF := by decide

theorem test_add :
    (ran 0x8124 (regs [(1, 0xC8), (2, 0x64)])).reg 1 = 0x2C ∧ (ran 0x8124 (regs [(1, 0xC8), (2, 0x64)])).reg 15 = 1 ∧
    (ran 0x8124 (regs [(1, 0x7F), (2, 0x01)])).reg 15 = 0 ∧ (ran 0x81F4 (regs [(1, 0xFF), (15, 1)])).reg 1 = 0 ∧
    (ran 0x8F24 (regs [(15, 0x05), (2, 3)])).reg 15 = 0 ∧ (ran 0x8FF4 (regs [(15, 0x80)])).reg 15 = 1 := by decide

theorem test_sub :
    (ran 0x8125 (regs [(1, 0x01), (2, 0xFF)])).reg 1 = 2 ∧ (ran 0x8125 (regs [(1, 0x01), (2, 0xFF)])).reg 15 = 0 ∧
    (ran 0x8125 (regs [(1, 0x80), (2, 0x80)])).reg 15 = 1 ∧ (ran 0x81F5 (regs [(1, 0), (15, 1)])).reg 1 = 0xFF ∧
    (ran 0x8F25 (regs [(15, 3), (2, 5)])).reg 15 = 0 := by decide

theorem test_subn :
    (ran 0x8127 (regs [(1, 0xFF), (2, 0x01)])).reg 1 = 2 ∧ (ran 0x8127 (regs [(1, 0xFF), (2, 0x01)])).reg 15 = 0 ∧
    (ran 0x8127 (regs [(1, 0x10), (2, 0x20)])).reg 15 = 1 ∧ (ran 0x8F27 (regs [(15, 3), (2, 5)])).reg 15 = 1 := by decide

theorem test_shr :
    (ran 0x8126 (regs [(1, 4), (2, 0xFF)])).reg 1 = 2 ∧ (ran 0x8126 (regs [(1, 4), (2, 0xFF)])).reg 15 = 0 ∧
    (ran 0x8106 (regs [(1, 0x81)])).reg 1 = 0x40 ∧ (ran 0x8106 (regs [(1, 0x81)])).reg 15 = 1 ∧
    (ran 0x8F06 (regs [(15, 3)])).reg 15 = 1 := by decide

theorem test_shl :
    (ran 0x810E (regs [(1, 0x81)])).reg 1 = 2 ∧ (ran 0x810E (regs [(1, 0x81)])).reg 15 = 1 ∧
    (ran 0x812E (regs [(1, 0x55), (2, 0xFF)])).reg 1 = 0xAA ∧ (ran 0x812E (regs [(1, 0x55), (2, 0xFF)])).reg 15 = 0 ∧
    (ran 0x8F0E (regs [(15, 0xC0)])).reg 15 = 1 := by decide

/-! ### Register transfer (section 2.3) -/

theorem test_loads :
    (ran 0x6A00 (regs [(10, 0x77)])).reg 10 = 0 ∧ (ran 0x6FFF base).reg 15 = 0xFF ∧
    (ran 0x8120 (regs [(1, 0x12), (2, 0x34)])).reg 1 = 0x34 ∧ (ran 0xAFFF base).i = 0x0FFF ∧
    (ran 0xAFFF base).pc = 0x202 := by decide

/-! ### Control flow (section 2.4) -/

theorem test_jumps :
    (ran 0x1ABC base).pc = 0x0ABC ∧ (ran 0xB300 (regs [(0, 0x10)])).pc = 0x0310 ∧
    (ran 0xBFFF (regs [(0, 0xFF)])).pc = 0x10FE := by decide

theorem test_call :
    (ran 0x2345 base).pc = 0x0345 ∧ (ran 0x2345 base).sp = 1 ∧ (ran 0x2345 base).stack.get 0 = 0x0202 ∧
    (ran 0x2345 (base.setStack base.stack 16)).fault = some .stackOverflow ∧
    (ran 0x2345 (base.setStack base.stack 16)).pc = 0x0200 ∧ (ran 0x2345 (base.setStack base.stack 16)).sp = 16 := by decide

theorem test_ret :
    (ran 0x00EE (ran 0x2345 base)).pc = 0x0202 ∧ (ran 0x00EE (ran 0x2345 base)).sp = 0 ∧
    (ran 0x00EE base).fault = some .stackUnderflow ∧ (ran 0x00EE base).pc = 0x0200 := by decide

theorem test_skips_on_immediate :
    (ran 0x3A7F (regs [(10, 0x7F)])).pc = 0x204 ∧ (ran 0x3A7F (regs [(10, 0x7E)])).pc = 0x202 ∧
    (ran 0x4A7F (regs [(10, 0x7F)])).pc = 0x202 ∧ (ran 0x4A7F (regs [(10, 0x7E)])).pc = 0x204 := by decide

theorem test_skips_on_register :
    (ran 0x5AB0 (regs [(10, 0x33), (11, 0x33)])).pc = 0x204 ∧ (ran 0x5AB0 (regs [(10, 0x33), (11, 0x34)])).pc = 0x202 ∧
    (ran 0x9AB0 (regs [(10, 0x33), (11, 0x33)])).pc = 0x202 ∧ (ran 0x9AA0 base).pc = 0x202 := by decide

/-! ### Index register and memory (section 2.5) -/

theorem test_add_index :
    (ran 0xF01E ((regs [(0, 0xFF)]).setI 0x0FFF)).i = 0x10FE ∧ (ran 0xF01E ((regs [(0, 2)]).setI 0xFFFF)).i = 1 ∧
    (ran 0xF01E ((regs [(0, 2), (15, 9)]).setI 0xFFFF)).reg 15 = 9 := by decide

theorem test_font_address :
    (ran 0xF429 (regs [(4, 0x0A)])).i = 0x32 ∧ (ran 0xF029 (regs [(0, 0xFF)])).i = 0x04FB ∧
    (ran 0xF029 ((regs [(0, 7)]).setFontBase 0x50)).i = 0x73 := by decide

theorem test_bcd :
    (ran 0xF533 ((regs [(5, 0x9C)]).setI 0x300)).mem = [(0x300, 1), (0x301, 5), (0x302, 6)] ∧
    (ran 0xF533 ((regs [(5, 0x9C)]).setI 0x300)).i = 0x300 := by decide

/-- The first program of the fault table: the digits before the fault stay. -/
theorem test_bcd_fault :
    (ran 0xF033 ((regs [(0, 0xEA)]).setI 0xFFE)).mem = [(0xFFE, 2), (0xFFF, 3)] ∧
    (ran 0xF033 ((regs [(0, 0xEA)]).setI 0xFFE)).fault = some (.addressOutOfRange 0x1000) ∧
    (ran 0xF033 ((regs [(0, 0xEA)]).setI 0xFFE)).pc = 0x200 := by decide

theorem test_dump :
    (ran 0xF255 ((regs [(0, 0x11), (1, 0x22), (2, 0x33), (3, 0x44)]).setI 0x400)).mem =
      [(0x400, 0x11), (0x401, 0x22), (0x402, 0x33)] ∧
    (ran 0xF255 ((regs [(0, 0x11), (1, 0x22), (2, 0x33), (3, 0x44)]).setI 0x400)).i = 0x400 := by decide

theorem test_dump_fault :
    (ran 0xF355 ((regs [(0, 0x11), (1, 0x22), (2, 0x33), (3, 0x44)]).setI 0xFFD)).mem =
      [(0xFFD, 0x11), (0xFFE, 0x22), (0xFFF, 0x33)] ∧
    (ran 0xF355 ((regs [(0, 0x11), (1, 0x22), (2, 0x33), (3, 0x44)]).setI 0xFFD)).fault =
      some (.addressOutOfRange 0x1000) := by decide

/-- Four bytes of section 2.5 at 0x300. -/
def abcd : State := (bytes [(0x300, 0xA1), (0x301, 0xB2), (0x302, 0xC3), (0x303, 0xD4)] base).setI 0x300

theorem test_load :
    (ran 0xF265 abcd).reg 0 = 0xA1 ∧ (ran 0xF265 abcd).reg 1 = 0xB2 ∧ (ran 0xF265 abcd).reg 2 = 0xC3 ∧
    (ran 0xF265 abcd).reg 3 = 0 ∧ (ran 0xF265 abcd).i = 0x300 := by decide

/-- The third program of the fault table: the registers before the fault stay. -/
def endOfMemory : State :=
  (bytes [(0xFFE, 0xAA), (0xFFF, 0xBB)] (regs [(0, 0x11), (1, 0x22), (2, 0x33), (3, 0x44)])).setI 0xFFE

theorem test_load_fault :
    (ran 0xF365 endOfMemory).reg 1 = 0xBB ∧ (ran 0xF365 endOfMemory).reg 2 = 0x33 ∧
    (ran 0xF365 endOfMemory).fault = some (.addressOutOfRange 0x1000) ∧ (ran 0xF365 endOfMemory).pc = 0x200 := by decide

/-! ### Display (section 2.6) -/

/-- The grid with the given (row, column) pixels on. -/
def grid (ps : List (Fin 32 × Nat)) : Grid :=
  ps.foldl (fun g p => g.set p.1.val (g.get p.1 ||| BitVec.twoPow 64 p.2) p.1.isLt) blankGrid

theorem test_draw_row_wraps :
    drawRow 255 255 0xC0 blankGrid = (grid [(31, 63), (31, 0)], false) ∧
    drawRow 64 32 0x81 blankGrid = (grid [(0, 0), (0, 7)], false) := by decide

theorem test_draw_row_collides :
    drawRow 5 3 0xF0 (grid [(3, 3), (3, 4), (3, 5), (3, 6)]) = (grid [(3, 3), (3, 4), (3, 7), (3, 8)], true) := by decide

/-- The sprite byte F0 at `I`, column 62 and row 31 in `V0` and `V1`. -/
def corner : State := bytes [(0, 0xF0)] (regs [(0, 0x3E), (1, 0x1F), (15, 5)])

theorem test_sprite_wraps_and_erases :
    (ran 0xD011 corner).pix = grid [(31, 62), (31, 63), (31, 0), (31, 1)] ∧ (ran 0xD011 corner).reg 15 = 0 ∧
    (ran 0xD011 (ran 0xD011 corner)).pix = blankGrid ∧ (ran 0xD011 (ran 0xD011 corner)).reg 15 = 1 := by decide

/-- A two-row sprite whose second byte is out of range. -/
def cutOff : State := (bytes [(0xFFF, 0x80)] (regs [(15, 1)])).setI 0xFFF

theorem test_sprite_fault_and_no_rows :
    (ran 0xD012 cutOff).pix = grid [(0, 0)] ∧ (ran 0xD012 cutOff).fault = some (.addressOutOfRange 0x1000) ∧
    (ran 0xD012 cutOff).reg 15 = 1 ∧ (ran 0xD012 cutOff).pc = 0x200 ∧
    (ran 0xD010 (cutOff.setI 0x1000)).reg 15 = 0 ∧ (ran 0xD010 (cutOff.setI 0x1000)).pc = 0x202 := by decide

theorem test_clear :
    (ran 0x00E0 (base.setPix (grid [(0, 0), (31, 63)]))).pix = blankGrid ∧ (ran 0x00E0 base).pc = 0x202 := by decide

/-! ### Keys, timers, random (section 2.7) -/

theorem test_key_skips :
    (ran 0xE09E ((regs [(0, 5)]).setKeys 0x0020)).pc = 0x204 ∧ (ran 0xE09E ((regs [(0, 5)]).setKeys 0xFFDF)).pc = 0x202 ∧
    (ran 0xE0A1 ((regs [(0, 5)]).setKeys 0x0020)).pc = 0x202 ∧ (ran 0xE0A1 (regs [(0, 5)])).pc = 0x204 ∧
    (ran 0xE09E ((regs [(0, 15)]).setKeys 0x8000)).pc = 0x204 := by decide

theorem test_key_skip_faults :
    (ran 0xE09E ((regs [(0, 0x10)]).setKeys 0xFFFF)).fault = some (.keyIndexOutOfRange 0x10) ∧
    (ran 0xE0A1 (regs [(0, 0xFF)])).fault = some (.keyIndexOutOfRange 0xFF) ∧
    (ran 0xE0A1 (regs [(0, 0xFF)])).pc = 0x200 := by decide

theorem test_key_wait :
    ran 0xF30A base = base ∧ (ran 0xF30A (base.setKeys 0x8002)).reg 3 = 1 ∧
    (ran 0xF30A (base.setKeys 0x8000)).reg 3 = 15 ∧ (ran 0xF30A (base.setKeys 0x8000)).pc = 0x202 := by decide

theorem test_timers :
    (ran 0xF015 (regs [(0, 3)])).dt = 3 ∧ (ran 0xF107 (base.setDt 0x3C)).reg 1 = 0x3C ∧
    (ran 0xF018 (regs [(0, 2)])).st = 2 ∧ (ran 0xF018 (regs [(0, 2)])).buzzer = true ∧
    (ran 0xF018 base).buzzer = false := by decide

theorem test_timer_tick :
    (stepped (((base.setDt 3).setSt 1).setSchedule [.timerTick])).dt = 2 ∧
    (stepped (((base.setDt 3).setSt 1).setSchedule [.timerTick])).buzzer = false ∧
    (stepped ((base.setSt 1).setSchedule [.timerTick])).dt = 0 := by decide

theorem test_next_bit :
    nextRng 0x0001 = 0x8000 ∧ nextRng 0x8000 = 0x4000 ∧ nextRng 0x1000 = 0x8800 ∧ nextRng 0x1110 = 0x8888 ∧
    nextRng 0x8888 = 0xC444 ∧ nextRng 0x6222 = 0xB111 := by decide

theorem test_get_byte :
    seedRng 0x0001 = .ok 0xB111 ∧ seedRng 0xACE1 = .ok 0x0877 ∧ seedRng 0 = .error .zeroSeed ∧
    getByte 0xB111 = (0x0D, 0xB0B1) ∧ getByte 0x0877 = (0x46, 0x6208) ∧ getByte 0x5888 = (0x1A, 0x5858) := by decide

theorem test_rnd :
    (ran 0xC0FF base).reg 0 = 0x0D ∧ (ran 0xC10F (ran 0xC0FF base)).reg 1 = 0x0D ∧
    (ran 0xC300 base).reg 3 = 0 ∧ (ran 0xC300 base).rng = 0xB0B1 := by decide

/-! ### Steps, faults, Reset (section 2.8, R262) -/

/-- F1 to F5. -/
theorem test_fetch_faults :
    (stepped (base.setPc 0x0FFF)).fault = some (.addressOutOfRange 0x1000) ∧
    (stepped (base.setPc 0x10FE)).fault = some (.addressOutOfRange 0x10FE) ∧
    (stepped (atWord 0x0FFE 0x1200)).pc = 0x0200 ∧ (stepped base).fault = some (.unknownOpcode 0x0000) ∧
    (stepped (atWord 0x0200 0x8008)).fault = some (.unknownOpcode 0x8008) := by decide

/-- F8. -/
theorem test_faulted_core_is_frozen :
    stepped ((((base.setDt 5).raise .stackUnderflow)).setSchedule [.timerTick]) = (base.setDt 5).raise .stackUnderflow ∧
    stepped ((atWord 0x200 0x6005).raise .stackUnderflow) =
      ((atWord 0x200 0x6005).setSchedule []).raise .stackUnderflow := by decide

/-- A step from `State.reset` runs the instruction placed where it fetches. -/
theorem test_step_runs_placed_word :
    (stepped (State.reset.withFetchWord 16 0x6005)).reg 0 = 5 ∧
    (stepped (State.reset.withFetchWord 16 0x6005)).pc = 0x202 ∧
    (stepped (State.reset.withFetchWord 16 0xA123)).i = 0x123 := by decide

/-- R263: `PC_RESET + L` of 0x1001 with no ROM latches a fault, of 0x1000 none. -/
theorem test_reset_with_empty_rom :
    ((stepped (resetting { Config.resetArgs with pcReset := 0x1001 })).fault.map Fault.code) = some 1 ∧
    (stepped (resetting { Config.resetArgs with pcReset := 0x1000 })).fault = none := by decide

/-- R262 and R42: glyphs 0, 7 and F of the font in the memory of `State.reset`, zeros after them. -/
theorem test_reset_font :
    (List.range 5).map State.reset.byteAt = [0xF0, 0x90, 0x90, 0x90, 0xF0] ∧
    (List.range 5).map (fun k => State.reset.byteAt (35 + k)) = [0xF0, 0x10, 0x20, 0x40, 0x40] ∧
    (List.range 6).map (fun k => State.reset.byteAt (75 + k)) = [0xF0, 0x80, 0xF0, 0x80, 0x80, 0] := by decide

/-! ### Witnesses: the hypotheses of each obligation can be met, clause by clause, at boundary values -/

theorem witness_EncodeInvertsDecode : decode 0x8AB6 = .ok (.shr 0xA 0xB) := by decide

theorem witness_DecoderFollowsOpcodeMap : (⟨0xF00F, 0x800E⟩ : OpRow) ∈ opcodeTable := by decide

theorem witness_StepRunsDecodedInstruction_frozen :
    ((atWord 0x200 0x6005).raise .zeroSeed).schedule = [.cpuCycle 0] ∧
    ((atWord 0x200 0x6005).raise .zeroSeed).fault ≠ none := by decide

theorem witness_StepRunsDecodedInstruction_first_byte :
    (atWord 0x1000 0).schedule = [.cpuCycle 0] ∧ (atWord 0x1000 0).fault = none ∧
    memRead (atWord 0x1000 0) 0x1000 = .error (.addressOutOfRange 0x1000) := by decide

theorem witness_StepRunsDecodedInstruction_second_byte :
    (atWord 0x0FFF 0).schedule = [.cpuCycle 0] ∧ (atWord 0x0FFF 0).fault = none ∧
    memRead (atWord 0x0FFF 0) 0x0FFF = .ok 0 ∧
    memRead (atWord 0x0FFF 0) 0x1000 = .error (.addressOutOfRange 0x1000) := by decide

theorem witness_StepRunsDecodedInstruction_decoded :
    (atWord 0x0FFE 0x6005).schedule = [.cpuCycle 0] ∧ (atWord 0x0FFE 0x6005).fault = none ∧
    memRead (atWord 0x0FFE 0x6005) 0x0FFE = .ok 0x60 ∧ memRead (atWord 0x0FFE 0x6005) 0x0FFF = .ok 0x05 ∧
    decode (joinBytes 0x60 0x05) = .ok (.ldImm 0 0x05) := by decide

theorem witness_StepRunsDecodedInstruction_illegal :
    (atWord 0x0FFE 0x5011).schedule = [.cpuCycle 0] ∧ (atWord 0x0FFE 0x5011).fault = none ∧
    memRead (atWord 0x0FFE 0x5011) 0x0FFE = .ok 0x50 ∧ memRead (atWord 0x0FFE 0x5011) 0x0FFF = .ok 0x11 ∧
    decode (joinBytes 0x50 0x11) = .error (.unknownOpcode 0x5011) := by decide

theorem witness_IdleStepIsCpuCycle : base.schedule = [] := by decide

theorem witness_FetchAtTopOfMemoryFaults :
    ((atWord 0x0FFF 0).fault = none ∧ (atWord 0x0FFF 0).schedule = [.cpuCycle 0] ∧ (atWord 0x0FFF 0).pc = 0x0FFF) ∧
    ((atWord 0x1000 0).fault = none ∧ (atWord 0x1000 0).schedule = [.cpuCycle 0] ∧
      0x1000 ≤ (atWord 0x1000 0).pc.toNat) ∧
    (atWord 0x0FFE 0).fault = none ∧ (atWord 0x0FFE 0).schedule = [.cpuCycle 0] ∧ (atWord 0x0FFE 0).pc.toNat ≤ 0x0FFE ∧
      (atWord 0x0FFE 0).byteAt 0x0FFE = 0 ∧ (atWord 0x0FFE 0).byteAt 0x0FFF = 0 := by decide

theorem witness_IllegalWordLatchesUnknownOpcode :
    (atWord 0x0FFE 0x5011).fault = none ∧ (atWord 0x0FFE 0x5011).schedule = [.cpuCycle 0] ∧
    (atWord 0x0FFE 0x5011).pc.toNat ≤ 0x0FFE ∧
    inIllegalGroup (joinBytes ((atWord 0x0FFE 0x5011).byteAt (atWord 0x0FFE 0x5011).pc.toNat)
      ((atWord 0x0FFE 0x5011).byteAt ((atWord 0x0FFE 0x5011).pc.toNat + 1))) := by
  refine ⟨by decide, by decide, by decide, .inr (.inl (by decide))⟩

theorem witness_FaultedCoreIsFrozenUntilReset_frozen :
    ((base.raise .zeroSeed).setSchedule [.cpuCycle 0, .timerTick]).fault ≠ none ∧
    ∀ a, Event.reset a ∉ ((base.raise .zeroSeed).setSchedule [.cpuCycle 0, .timerTick]).schedule :=
  ⟨by decide, fun a h => by simp at h⟩

theorem witness_FaultedCoreIsFrozenUntilReset_reset :
    ((base.raise .zeroSeed).setSchedule [.reset Config.resetArgs]).fault ≠ none ∧
    ((base.raise .zeroSeed).setSchedule [.reset Config.resetArgs]).schedule = [.reset Config.resetArgs] ∧
    Config.resetArgs.wellFormed = true := by decide

theorem witness_TimerTickCountsBothTimersDown :
    ((base.setSchedule [.timerTick]).schedule = [.timerTick] ∧ (base.setSchedule [.timerTick]).fault = none) ∧
    ((base.setDt 0xFF).fault = none ∧ (base.setDt 0xFF).dt.toNat ≤ 255 ∧ (base.setDt 0xFF).st.toNat ≤ 255) ∧
    ((base.raise .zeroSeed).setSchedule [.timerTick]).schedule = [.timerTick] ∧
    ((base.raise .zeroSeed).setSchedule [.timerTick]).fault ≠ none := by decide

theorem witness_SelfJumpChangesNothing :
    AtSelfJump (atWord 0x200 0x1200) ∧ (atWord 0x200 0x1200).schedule = [.cpuCycle 0] :=
  ⟨⟨by decide, 0x200, by decide, by decide⟩, by decide⟩

theorem witness_ResetEstablishesStatedValues :
    (base.setSchedule [.reset { Config.resetArgs with pcReset := 0x0FFF, fontBase := 0x0FB0, rom := [0x12] }]).schedule =
      [.reset { Config.resetArgs with pcReset := 0x0FFF, fontBase := 0x0FB0, rom := [0x12] }] ∧
    { Config.resetArgs with pcReset := 0x0FFF, fontBase := 0x0FB0, rom := [0x12] }.wellFormed = true := by decide

/-- A font one byte too high. -/
theorem witness_ResetFailureLatchesCause_font :
    (resetting { Config.resetArgs with fontBase := 0x0FB1 }).schedule =
      [.reset { Config.resetArgs with fontBase := 0x0FB1 }] ∧
    { Config.resetArgs with fontBase := 0x0FB1 }.fontFits = false := by decide

/-- A ROM one byte too long, and an empty one with its entry point just above the memory. -/
theorem witness_ResetFailureLatchesCause_rom :
    ((resetting { Config.resetArgs with pcReset := 0x0FFF, rom := [0x12, 0x00] }).schedule =
        [.reset { Config.resetArgs with pcReset := 0x0FFF, rom := [0x12, 0x00] }] ∧
      { Config.resetArgs with pcReset := 0x0FFF, rom := [0x12, 0x00] }.fontFits = true ∧
      { Config.resetArgs with pcReset := 0x0FFF, rom := [0x12, 0x00] }.romFits = false) ∧
    (resetting { Config.resetArgs with pcReset := 0x1001 }).schedule =
        [.reset { Config.resetArgs with pcReset := 0x1001 }] ∧
      { Config.resetArgs with pcReset := 0x1001 }.fontFits = true ∧
      { Config.resetArgs with pcReset := 0x1001 }.romFits = false := by decide

/-- A zero seed, and a ROM that ends at the last byte. -/
theorem witness_ResetFailureLatchesCause_seed :
    (resetting { Config.resetArgs with pcReset := 0x0FFE, rom := [0x12, 0x00], seed := 0 }).schedule =
      [.reset { Config.resetArgs with pcReset := 0x0FFE, rom := [0x12, 0x00], seed := 0 }] ∧
    { Config.resetArgs with pcReset := 0x0FFE, rom := [0x12, 0x00], seed := 0 }.fontFits = true ∧
    { Config.resetArgs with pcReset := 0x0FFE, rom := [0x12, 0x00], seed := 0 }.romFits = true ∧
    { Config.resetArgs with pcReset := 0x0FFE, rom := [0x12, 0x00], seed := 0 }.seed = 0 := by decide

theorem witness_StepKeepsMemoryCanonical :
    MemoryCanonical (atWord 0x0FFE 0xC0FF) ∧ ∃ t, step (atWord 0x0FFE 0xC0FF) = .next t :=
  ⟨(by decide : Memory.wf (atWord 0x0FFE 0xC0FF).mem), _, rfl⟩

theorem witness_StepKeepsRngNonzero :
    RngNonzero (atWord 0x0FFE 0xC0FF) ∧ ∃ t, step (atWord 0x0FFE 0xC0FF) = .next t :=
  ⟨(by decide : (atWord 0x0FFE 0xC0FF).rng ≠ 0), _, rfl⟩

theorem witness_StepKeepsPcBounded :
    PcBounded (atWord 0x0FFE 0xBFFF) ∧ ∃ t, step (atWord 0x0FFE 0xBFFF) = .next t := by
  refine ⟨⟨by decide, fun k h => absurd h (Nat.not_lt_zero _), fun a h => ?_⟩, _, rfl⟩
  rcases List.mem_cons.1 h with h | h
  · cases h
  · cases h

theorem witness_PartsWrittenOnlyByNamedInstructions : ∃ t, exec (.rnd 0 0xFF) base = .next t := ⟨_, rfl⟩

theorem witness_FontBaseWrittenByResetOnly :
    (∀ a es, (atWord 0x200 0xF029).schedule ≠ .reset a :: es) ∧ ∃ t, step (atWord 0x200 0xF029) = .next t :=
  ⟨fun a es h => (by cases h), _, rfl⟩

theorem witness_RegistersReadAndWrittenAsListed :
    ((∃ t, exec (.loadRegs 14) base = .next t) ∧ writesReg (.loadRegs 14) 15 = false) ∧
    readsReg (.storeRegs 14) 15 = false ∧ (∃ t, exec (.storeRegs 14) base = .next t) ∧
      ∃ t, exec (.storeRegs 14) (base.setReg 15 1) = .next t :=
  ⟨⟨⟨_, rfl⟩, by decide⟩, by decide, ⟨_, rfl⟩, _, rfl⟩

theorem witness_FlagRegisterWrittenOnlyByFlagWriters :
    ((∃ t, exec (.addImm 0 0xFF) base = .next t) ∧ writesFlag (.addImm 0 0xFF) = false ∧
      writesReg (.addImm 0 0xFF) vf = false) ∧
    writesFlag (.addReg 15 15) = true ∧ ∃ t, exec (.addReg 15 15) base = .next t ∧ t.fault = none :=
  ⟨⟨⟨_, rfl⟩, by decide, by decide⟩, by decide, _, rfl, rfl⟩

theorem witness_PcMovesByDirective :
    base.fault = none ∧ (∃ t, exec (.jp 0xFFF) base = .next t ∧ t.fault = none) ∧
    ∃ t, exec .ret base = .next t ∧ t.fault ≠ none :=
  ⟨rfl, ⟨_, rfl, rfl⟩, base.raise .stackUnderflow, rfl, by decide⟩

theorem witness_InstructionsRaiseOnlyListedCauses :
    base.fault = none ∧ ∃ t, exec .ret base = .next t ∧ t.fault = some .stackUnderflow :=
  ⟨rfl, base.raise .stackUnderflow, rfl, rfl⟩

theorem witness_RaisingLeavesOnlyPartialEffects :
    base.fault = none ∧ (∃ t, exec .ret base = .next t ∧ t.fault = some .stackUnderflow) ∧ executeCause .ret ≠ some 1 ∧
    (base.setI 0x1000).fault = none ∧
    (∃ t, exec (.drw 0 1 1) (base.setI 0x1000) = .next t ∧ t.fault = some (.addressOutOfRange 0x1000)) ∧
    executeCause (.drw 0 1 1) = some 1 :=
  ⟨rfl, ⟨base.raise .stackUnderflow, rfl, rfl⟩, by decide, rfl,
    ⟨(base.setI 0x1000).raise (.addressOutOfRange 0x1000), rfl, rfl⟩, by decide⟩

theorem witness_KeysAndSoundTimerAreNotReadElsewhere :
    (∀ x, Instr.ldVxDt 0 ≠ .skp x) ∧ (∀ x, Instr.ldVxDt 0 ≠ .sknp x) ∧ (∀ x, Instr.ldVxDt 0 ≠ .ldVxK x) ∧
    ∃ t, exec (.ldVxDt 0) base = .next t :=
  ⟨by decide, by decide, by decide, _, rfl⟩

theorem witness_WrittenByteIsReadBack : 0x0FFF < 0x1000 ∧ 0x1000 ≤ 0x1000 := by decide

theorem witness_StackHoldsSixteenAddresses :
    (base.sp = 0 ∧ (List.replicate 16 (0x0202 : Word)).length = 16) ∧ ∃ t, push base 0x1000 = .ok t :=
  ⟨by decide, _, rfl⟩

theorem witness_StoredBytesAreFetched :
    (base.setI 0x0FF0).i.toNat + (15 : Reg).val < 0x1000 ∧ (15 : Reg).val = (14 : Reg).val + 1 ∧ (15 : Reg) ≤ 15 ∧
    ∃ t, exec (.storeRegs 15) (base.setI 0x0FF0) = .next t :=
  ⟨by decide, by decide, by decide, _, rfl⟩

theorem witness_CallPushesReturnAddress :
    (base.setStack base.stack 15).sp.val < 16 ∧ (base.setStack base.stack 16).sp.val = 16 := by decide

theorem witness_ReturnPopsReturnAddress :
    (base.setStack base.stack 16).sp.val = (15 : Fin 16).val + 1 ∧ (base.setStack base.stack 1).sp.val = (0 : Fin 16).val + 1 ∧
    base.sp.val = 0 := by decide

theorem witness_ReturnUndoesCall : (base.setStack base.stack 15).sp.val < 16 := by decide

theorem witness_BcdStoresThreeDigits :
    (base.setI 0x0FFD).i.toNat + 2 < 0x1000 ∧
    ((base.setI 0x0FFE).i.toNat + 2 ≥ 0x1000 ∧ 2 = 0x1000 - (base.setI 0x0FFE).i.toNat) ∧
    (base.setI 0x1000).i.toNat + 2 ≥ 0x1000 ∧ 0 = 0x1000 - (base.setI 0x1000).i.toNat := by decide

theorem witness_DumpStoresRegisters :
    (base.setI 0x0FF0).i.toNat + (15 : Reg).val < 0x1000 ∧
    ((base.setI 0x0FF1).i.toNat + (15 : Reg).val ≥ 0x1000 ∧ 15 = 0x1000 - (base.setI 0x0FF1).i.toNat) ∧
    (base.setI 0x1000).i.toNat + (0 : Reg).val ≥ 0x1000 ∧ 0 = 0x1000 - (base.setI 0x1000).i.toNat := by decide

theorem witness_LoadFillsRegisters :
    (base.setI 0x0FF0).i.toNat + (15 : Reg).val < 0x1000 ∧
    (base.setI 0x0FF1).i.toNat + (15 : Reg).val ≥ 0x1000 ∧ 15 = 0x1000 - (base.setI 0x0FF1).i.toNat := by decide

theorem witness_NonzeroByteCollidesInOneOfTwoDraws : (0x01 : Byte) ≠ 0 := by decide

theorem witness_DrawXorsSpriteAndReportsCollision :
    ((0 : BitVec 4) = 0 ∨ (base.setI 0x1000).i.toNat + (0 : BitVec 4).toNat ≤ 0x1000) ∧
    ((15 : BitVec 4) = 0 ∨ (base.setI 0x0FF1).i.toNat + (15 : BitVec 4).toNat ≤ 0x1000) ∧
    (2 : BitVec 4) ≠ 0 ∧ (base.setI 0x0FFF).i.toNat + (2 : BitVec 4).toNat > 0x1000 ∧
      1 = 0x1000 - (base.setI 0x0FFF).i.toNat := by decide

theorem witness_KeySkipsTestOneKey :
    ((regs [(0, 15)]).reg 0).toNat < 16 ∧ 16 ≤ ((regs [(0, 16)]).reg 0).toNat := by decide

theorem witness_KeyWaitTakesLowestHeldKey : base.keys = 0 ∧ (base.setKeys 0x8001).keys ≠ 0 := by decide

theorem witness_SeedRejectsZeroAndDiscardsSixteenBits : (0 : Word) = 0 ∧ (1 : Word) ≠ 0 := by decide

theorem witness_GeneratorStatesFormOneCycle : (0xFFFF : Word) ≠ 0 ∧ 0 < 65534 ∧ 65534 < 65535 := by decide

end Sys2Proof.Tests
end

/-! What one step can make of `RNG`, and that it never reaches the generator's fixed point 0 (R34, R204; O19). -/

namespace Sys2Proof.Machine

/-! ### The generator avoids 0 -/

/-- The step of the generator can be undone: bits 0 to 14 of the result are the old bits 1 to 15, and with these the
feedback bit gives the old bit 0 (R201, R204). -/
theorem nextRng_injective : Function.Injective nextRng := by
  intro r r' h
  have bit (k : Nat) : (if k = 15 then feedbackBit r else r.getLsbD (k + 1)) =
      if k = 15 then feedbackBit r' else r'.getLsbD (k + 1) := by
    rw [← nextRng_getLsbD, ← nextRng_getLsbD, h]
  have upper (k : Nat) (hk : k < 15) : r.getLsbD (k + 1) = r'.getLsbD (k + 1) := by
    simpa only [Nat.ne_of_lt hk, if_false] using bit k
  have bit0 : r.getLsbD 0 = r'.getLsbD 0 := by
    have feedback : feedbackBit r = feedbackBit r' := bit 15
    simpa only [feedbackBit, upper 0 (by decide), upper 2 (by decide), upper 11 (by decide), Bool.xor_left_inj]
      using feedback
  refine BitVec.eq_of_getLsbD_eq fun k hk => ?_
  cases k with
  | zero => exact bit0
  | succ k => exact upper k (by omega)

/-- The fixed point of the generator (R204). -/
theorem nextRng_zero : nextRng 0 = 0 := by decide

theorem iterate_nextRng_ne_zero {r : Word} (h : r ≠ 0) (n : Nat) : nextRng^[n] r ≠ 0 := by
  have fixed : nextRng^[n] 0 = 0 := Function.iterate_fixed nextRng_zero n
  rw [← fixed]
  exact (nextRng_injective.iterate n).ne h

/-! ### What an instruction makes of `RNG` -/

/-- `RNG` after an instruction that found it at `r`: `CXNN` alone advances it, by eight steps (R34, R196). -/
def rngAfter : Instr → Word → Word
  | .rnd _ _, r => nextRng^[8] r
  | _, r => r

theorem rngAfter_cases (i : Instr) (r : Word) : rngAfter i r = r ∨ rngAfter i r = nextRng^[8] r := by
  cases i with
  | rnd x nn => exact .inr rfl
  | _ => exact .inl rfl

@[simp] theorem endState_rng (r : State × Option Fault) : (endState r).rng = r.1.rng := by
  rcases r with ⟨s, _ | f⟩ <;> rfl

/-- A skip does not write `RNG`. -/
theorem skip_rng (s : State) (c : Bool) : (s.applyDirective (skipIf c)).rng = s.rng :=
  skip_frame s c .rng List.not_mem_nil

/-- Every instruction leaves `RNG` as `rngAfter` says, raised or not. -/
theorem exec_rngAfter (i : Instr) (s : State) : ∃ t, exec i s = .next t ∧ t.rng = rngAfter i s.rng := by
  cases i with
  | rnd x nn => exact ⟨_, exec_rnd x nn s, collectBits_rng 8 0 s.rng⟩
  | seImm x nn => exact ⟨_, exec_seImm x nn s, skip_rng s _⟩
  | sneImm x nn => exact ⟨_, exec_sneImm x nn s, skip_rng s _⟩
  | seReg x y => exact ⟨_, exec_seReg x y s, skip_rng s _⟩
  | sneReg x y => exact ⟨_, exec_sneReg x y s, skip_rng s _⟩
  | skp x =>
    by_cases h : (s.reg x).toNat < 16
    · exact ⟨_, exec_skp x s h, skip_rng s _⟩
    · exact ⟨_, exec_skp_fault x s h, rfl⟩
  | sknp x =>
    by_cases h : (s.reg x).toNat < 16
    · exact ⟨_, exec_sknp x s h, skip_rng s _⟩
    · exact ⟨_, exec_sknp_fault x s h, rfl⟩
  | call nnn =>
    by_cases h : s.sp.val < 16
    · exact ⟨_, exec_call nnn s h, rfl⟩
    · exact ⟨_, exec_call_full nnn s h, rfl⟩
  | ret =>
    by_cases h : 0 < s.sp.val
    · exact ⟨_, exec_ret s h, rfl⟩
    · exact ⟨_, exec_ret_empty s h, rfl⟩
  | ldVxK x =>
    cases h : heldKey .levelLowest s with
    | none => exact ⟨_, exec_ldVxK_wait x s h, rfl⟩
    | some k => exact ⟨_, exec_ldVxK x s k h, rfl⟩
  | ldB x =>
    obtain ⟨m, hm, -, -⟩ := forEach_storeDigit (s.reg x) s 3
    exact ⟨_, exec_ldB x s, by rw [endState_rng, hm]; rfl⟩
  | storeRegs x =>
    obtain ⟨m, hm, -, -⟩ := forEach_storeReg s (x.val + 1)
    exact ⟨_, exec_storeRegs x s, by rw [endState_rng, hm]; rfl⟩
  | loadRegs x =>
    obtain ⟨v, hv, -, -⟩ := forEach_loadReg s (x.val + 1) x.isLt
    exact ⟨_, exec_loadRegs x s, by rw [endState_rng, hv]; rfl⟩
  | drw x y n =>
    obtain ⟨g, hg⟩ := sprite_setPix x y n s
    refine ⟨_, exec_drw x y n s, ?_⟩
    cases (sprite x y n s).2 <;> simp [hg, rngAfter]
  | cls => exact ⟨_, exec_cls s, rfl⟩
  | jp nnn => exact ⟨_, exec_jp nnn s, rfl⟩
  | jpV0 nnn => exact ⟨_, exec_jpV0 nnn s, rfl⟩
  | ldImm x nn => exact ⟨_, exec_ldImm x nn s, rfl⟩
  | addImm x nn => exact ⟨_, exec_addImm x nn s, rfl⟩
  | ldReg x y => exact ⟨_, exec_ldReg x y s, rfl⟩
  | orReg x y => exact ⟨_, exec_orReg x y s, rfl⟩
  | andReg x y => exact ⟨_, exec_andReg x y s, rfl⟩
  | xorReg x y => exact ⟨_, exec_xorReg x y s, rfl⟩
  | addReg x y => exact ⟨_, exec_addReg x y s, rfl⟩
  | subReg x y => exact ⟨_, exec_subReg x y s, rfl⟩
  | subnReg x y => exact ⟨_, exec_subnReg x y s, rfl⟩
  | shr x y => exact ⟨_, exec_shr x y s, rfl⟩
  | shl x y => exact ⟨_, exec_shl x y s, rfl⟩
  | ldI nnn => exact ⟨_, exec_ldI nnn s, rfl⟩
  | ldVxDt x => exact ⟨_, exec_ldVxDt x s, rfl⟩
  | ldDtVx x => exact ⟨_, exec_ldDtVx x s, rfl⟩
  | ldStVx x => exact ⟨_, exec_ldStVx x s, rfl⟩
  | addI x => exact ⟨_, exec_addI x s, rfl⟩
  | ldF x => exact ⟨_, exec_ldF x s, rfl⟩

theorem exec_rng {i : Instr} {s t : State} (h : exec i s = .next t) : t.rng = rngAfter i s.rng := by
  obtain ⟨u, hu, hr⟩ := exec_rngAfter i s
  cases hu.symm.trans h
  exact hr

/-! ### What an event makes of `RNG` -/

/-- The values one event can give `RNG` from `r` (R34): it stays, `CXNN` advances it by eight steps, or a Reset with a
nonzero seed starts it anew (R203). -/
def RngMoves (r r' : Word) : Prop :=
  r' = r ∨ r' = nextRng^[8] r ∨ ∃ seed, seed ≠ 0 ∧ r' = nextRng^[16] seed

theorem RngMoves.ne_zero {r r' : Word} (h : RngMoves r r') (hr : r ≠ 0) : r' ≠ 0 := by
  obtain rfl | rfl | ⟨seed, hs, rfl⟩ := h
  · exact hr
  · exact iterate_nextRng_ne_zero hr 8
  · exact iterate_nextRng_ne_zero hs 16

theorem cpuCycle_rng {k : Word} {s t : State} (h : cpuCycle k s = .next t) :
    t.rng = s.rng ∨ t.rng = nextRng^[8] s.rng := by
  cases hf : s.fault with
  | some f =>
    cases (cpuCycle_frozen hf k).symm.trans h
    exact .inl rfl
  | none =>
    rw [cpuCycle_runs hf] at h
    obtain ⟨f, -, hr⟩ | ⟨op, e, -, -, hr⟩ | ⟨op, i, -, -, hr⟩ := runInstruction_cases (s.setKeys k)
    · cases hr.symm.trans h
      exact .inl rfl
    · cases hr.symm.trans h
      exact .inl rfl
    · rw [exec_rng (hr.symm.trans h)]
      exact rngAfter_cases i s.rng

@[simp] theorem timerTick_rng (s : State) : (timerTick s).rng = s.rng := by
  unfold timerTick
  cases s.fault <;> rfl

@[simp] theorem loadBytes_rng (bs : List Byte) (a : Nat) (s : State) : (loadBytes bs a s).1.rng = s.rng := by
  obtain ⟨m, hm, -, -⟩ := loadBytes_spec bs a s
  rw [hm, State.setMem_rng]

@[simp] theorem zeroed_rng (s : State) : (zeroed s).rng = s.rng := rfl

/-- The end of a Reset seeds the generator, unless the seed is 0 (R203, R227). -/
theorem startCore_rng (a : ResetArgs) (s : State) :
    (startCore a s).rng = if a.seed = 0 then s.rng else nextRng^[16] a.seed := by
  unfold startCore seedRng
  by_cases h : a.seed = 0
  · simp only [h, if_true]; rfl
  · simp only [h, if_false]; exact advanceRng_eq_iterate 16 a.seed

/-- A Reset seeds the generator exactly where its arguments are good; one that fails leaves `RNG` (R203, R263, log 12). -/
theorem resetEvent_rng (a : ResetArgs) (s : State) :
    (resetEvent a s).rng = if a.wellFormed then nextRng^[16] a.seed else s.rng := by
  cases hf : a.fontFits with
  | false => simp [resetEvent_fontMisfit hf, ResetArgs.wellFormed, hf]
  | true =>
    cases hr : a.romFits with
    | false => simp [resetEvent_romMisfit hf hr, ResetArgs.wellFormed, hr]
    | true =>
      rw [resetEvent_fits hf hr, startCore_rng]
      by_cases hs : a.seed = 0 <;> simp [ResetArgs.wellFormed, hf, hr, hs]

theorem runEvent_rngMoves {e : Event} {s t : State} (h : runEvent e s = .next t) : RngMoves s.rng t.rng := by
  cases e with
  | cpuCycle k => exact (cpuCycle_rng h).imp_right .inl
  | timerTick =>
    cases h
    exact .inl (timerTick_rng s)
  | reset a =>
    cases h
    rw [resetEvent_rng]
    split
    · next hw =>
      obtain ⟨-, -, hseed⟩ := (wellFormed_iff a).1 hw
      exact .inr (.inr ⟨a.seed, hseed, rfl⟩)
    · exact .inl rfl

/-- A step is one event, and taking it from the schedule leaves `RNG` (R272). -/
theorem step_rngMoves {s t : State} (h : step s = .next t) : RngMoves s.rng t.rng :=
  runEvent_rngMoves (s := s.setSchedule (nextEvent s).2) h

/-- Settles O19: each value a step can give `RNG` is the old one or an iterate of `nextRng` from a nonzero word. -/
theorem stepKeepsRngNonzero : Obligations.StepKeepsRngNonzero :=
  fun _ _ hs h => (step_rngMoves h).ne_zero hs

end Sys2Proof.Machine

/-! A checked write changes one byte, and a checked read gives it back (R52, R53; O30). -/

namespace Sys2Proof.Machine

/-! ### What writing the memory leaves unchanged -/

theorem setMem_frame (s : State) (m : Memory) : Frame [.memory] s (s.setMem m) := by
  intro p hp
  cases p with
  | memory => exact absurd List.mem_cons_self hp
  | _ => simp [Keeps]

/-- A write of one byte leaves the bytes below and above it (R53). -/
theorem write_bytesExcept (s : State) (a : Nat) (b : Byte) :
    BytesExcept a 1 s (s.setMem (Memory.write s.mem a b)) := by
  intro c hc
  have hne : c ≠ a := by omega
  rw [byteAt_write, if_neg hne]

/-! ### A read after a write -/

theorem memRead_write {s : State} {a : Nat} (b : Byte) (h : a < 0x1000) :
    memRead (s.setMem (Memory.write s.mem a b)) a = .ok b := by
  rw [memRead_ok h, byteAt_write, if_pos rfl]

/-- Settles O30: inside the memory from what a write does to each byte, outside it because both accesses raise. -/
theorem writtenByteIsReadBack : Obligations.WrittenByteIsReadBack := by
  intro s a b
  refine ⟨fun inside => ?_, fun outside => ⟨memWrite_error outside, memRead_error outside⟩⟩
  exact ⟨_, memWrite_ok inside, memRead_write b inside, memRead_ok inside, State.setMem_pc s _,
    write_bytesExcept s a b, setMem_frame s _⟩

end Sys2Proof.Machine

/-! The words the document and its test vectors list, decoded (R74, R76, section 2.1; O1). -/

namespace Sys2Proof.Machine

/-- Settles O1: every word is a literal, so `decode` takes one path of its tree for each (R74), and evaluating the
sixteen paths decides the statement. -/
theorem listedWordsDecode : Obligations.ListedWordsDecode := by
  unfold Obligations.ListedWordsDecode
  decide

end Sys2Proof.Machine

/-! The three loads: `6XNN` and `8XY0` write a register, `ANNN` writes `I` (R120, R121, R122; O33). -/

namespace Sys2Proof.Machine

/-! ### Decoding the words of the loads -/

theorem decode_ldImm (x : Reg) (nn : Byte) : decode (formXNN 0x6 x nn) = .ok (.ldImm x nn) := by
  simp [decode]

theorem decode_ldReg (x y : Reg) : decode (formXYN 0x8 x y 0x0) = .ok (.ldReg x y) := by
  simp [decode, decode8]

theorem decode_ldI (nnn : BitVec 12) : decode (formNNN 0xA nnn) = .ok (.ldI nnn) := by
  simp [decode]

/-! ### Loading the index register -/

@[simp] theorem zextNNN_toNat (nnn : BitVec 12) : (zextNNN nnn).toNat = nnn.toNat :=
  BitVec.toNat_setWidth_of_le (by decide)

/-- Writing `I` and going to the next instruction changes nothing but `I` and `PC`. -/
theorem setI_setPc_frame (s : State) (a pc : Word) : Frame [.index] s ((s.setI a).setPc pc) := by
  intro p hp
  cases p with
  | index => exact absurd List.mem_cons_self hp
  | _ => simp [Keeps]

/-- Settles O33: the words decode by their fields, the two register loads are one write of a register, and `ANNN` is one
write of `I`. -/
theorem loadsWriteRegisterOrIndex : Obligations.LoadsWriteRegisterOrIndex := by
  intro s x y nn nnn
  refine ⟨decode_ldImm x nn, decode_ldReg x y, decode_ldI nnn, ?_, ?_, ?_⟩
  · exact ⟨_, exec_ldImm x nn s, writesReg_setReg s x nn⟩
  · exact ⟨_, exec_ldReg x y s, writesReg_setReg s x (s.reg y)⟩
  · exact ⟨_, exec_ldI nnn s, zextNNN_toNat nnn, State.setPc_pc _ _, setI_setPc_frame s (zextNNN nnn) (s.pc + 2)⟩

end Sys2Proof.Machine

/-! Jumps, calls, returns and the skips on registers: `PC` receives a target, the stack gains or loses one entry, and
nothing else changes (R131 to R133, R135 to R138; O38, O40, O41, O43). -/

namespace Sys2Proof.Machine

/-! ### Decoding the words of jumps, calls, returns and skips -/

theorem decode_jp (nnn : BitVec 12) : decode (formNNN 0x1 nnn) = .ok (.jp nnn) := by
  simp [decode]

theorem decode_call (nnn : BitVec 12) : decode (formNNN 0x2 nnn) = .ok (.call nnn) := by
  simp [decode]

theorem decode_ret : decode 0x00EE = .ok .ret := by decide

theorem decode_seImm (x : Reg) (nn : Byte) : decode (formXNN 0x3 x nn) = .ok (.seImm x nn) := by
  simp [decode]

theorem decode_sneImm (x : Reg) (nn : Byte) : decode (formXNN 0x4 x nn) = .ok (.sneImm x nn) := by
  simp [decode]

theorem decode_seReg (x y : Reg) : decode (formXYN 0x5 x y 0x0) = .ok (.seReg x y) := by
  simp [decode]

theorem decode_sneReg (x y : Reg) : decode (formXYN 0x9 x y 0x0) = .ok (.sneReg x y) := by
  simp [decode]

/-! ### Jumps -/

theorem setPc_frame (s : State) (a : Word) : Frame [] s (s.setPc a) := by
  intro p _
  cases p <;> simp [Keeps]

/-- Settles O38: `1NNN` is one write of `PC`. -/
theorem jumpSetsPc : Obligations.JumpSetsPc := by
  intro s nnn
  exact ⟨decode_jp nnn, _, exec_jp nnn s, zextNNN_toNat nnn, setPc_frame s (zextNNN nnn)⟩

/-! ### Calls and returns -/

theorem setStack_setPc_frame (s : State) (e : Vector Word 16) (n : Fin 17) (a : Word) :
    Frame [.entries, .sp] s ((s.setStack e n).setPc a) := by
  intro p hp
  cases p <;> simp_all [Keeps]

/-- A new `SP` over the same entries. -/
theorem setStack_same_setPc_frame (s : State) (n : Fin 17) (a : Word) :
    Frame [.sp] s ((s.setStack s.stack n).setPc a) := by
  intro p hp
  cases p <;> simp_all [Keeps]

theorem stack_set_get (e : Vector Word 16) (n : Nat) (h : n < 16) (v : Word) (k : Fin 16) :
    (e.set n v h).get k = if k.val = n then v else e.get k := by
  simp only [Vector.get_eq_getElem, Vector.getElem_set, eq_comm]

/-- Settles O40: below 16 entries a call is a push and a jump, and of the entries only entry `SP` is written; with 16 the
push raises. -/
theorem callPushesReturnAddress : Obligations.CallPushesReturnAddress := by
  intro s nnn
  refine ⟨decode_call nnn, fun room => ?_, fun full => exec_call_full nnn s (by omega)⟩
  exact ⟨_, exec_call nnn s room, zextNNN_toNat nnn, rfl, stack_set_get s.stack s.sp.val room (s.pc + 2),
    setStack_setPc_frame s _ _ (zextNNN nnn)⟩

/-- Settles O41: with `k + 1` entries in use a return is a pop of entry `k` and a jump to it; with none the pop raises. -/
theorem returnPopsReturnAddress : Obligations.ReturnPopsReturnAddress := by
  intro s
  refine ⟨decode_ret, fun k used => ?_, fun empty => exec_ret_empty s (by omega)⟩
  refine ⟨_, exec_ret s (by omega), ?_, ?_, setStack_same_setPc_frame s _ _⟩
  · simp [used, Vector.get_eq_getElem]
  · simp [used]

/-! ### Skips -/

theorem skip_pc_beq (s : State) (a b : Byte) :
    (s.applyDirective (skipIf (a == b))).pc = if a = b then s.pc + 4 else s.pc + 2 := by
  simp only [skip_pc, beq_iff_eq]

theorem skip_pc_bne (s : State) (a b : Byte) :
    (s.applyDirective (skipIf (a != b))).pc = if a = b then s.pc + 2 else s.pc + 4 := by
  simp only [skip_pc, bne_iff_ne, ne_eq, ite_not]

/-- Settles O43: each of the four ends in `Skip` or `Next` by one comparison and has no other effect. -/
theorem registerSkipsCompare : Obligations.RegisterSkipsCompare := by
  intro s x y nn
  refine ⟨decode_seImm x nn, decode_sneImm x nn, decode_seReg x y, decode_sneReg x y, ?_, ?_, ?_, ?_⟩
  · exact ⟨_, exec_seImm x nn s, skip_pc_beq s (s.reg x) nn, skip_frame s _⟩
  · exact ⟨_, exec_sneImm x nn s, skip_pc_bne s (s.reg x) nn, skip_frame s _⟩
  · exact ⟨_, exec_seReg x y s, skip_pc_beq s (s.reg x) (s.reg y), skip_frame s _⟩
  · exact ⟨_, exec_sneReg x y s, skip_pc_bne s (s.reg x) (s.reg y), skip_frame s _⟩

end Sys2Proof.Machine

/-! The display: drawing one row of a sprite XORs its bits into eight pixels, and clearing turns every pixel off (R172,
R173, R175; O48, O49, O50). -/

namespace Sys2Proof.Machine

/-! ### The loop over the bits of the sprite byte -/

/-- How far column `col` lies to the right of column `x`, modulo 64: the turn of `Draw`'s loop that meets it (R172). -/
def columnOffset (x : Nat) (col : Fin 64) : Nat := (col.val + 64 - x % 64) % 64

theorem spriteBit_eq (x : Nat) (b : Byte) (col : Fin 64) :
    spriteBit x b col = (decide (columnOffset x col < 8) && b.getLsbD (7 - columnOffset x col)) := rfl

/-- The turns below 64 and the columns are in bijection, so no pixel is met twice. -/
theorem columnOffset_eq_iff {x k : Nat} {col : Fin 64} (hk : k < 64) :
    columnOffset x col = k ↔ col.val = (x + k) % 64 := by
  unfold columnOffset
  omega

/-- The pixels after the first `n` turns: the columns less than `n` to the right of `x` are XORed. -/
theorem drawBits_pixels (x : Nat) (b : Byte) (row : BitVec 64 × Bool) (col : Fin 64) {n : Nat} (hn : n ≤ 64) :
    ((List.range n).foldl (drawBit x b) row).1.getLsbD col.val =
      (row.1.getLsbD col.val ^^ (decide (columnOffset x col < n) && b.getLsbD (7 - columnOffset x col))) := by
  induction n with
  | zero => simp
  | succ n ih =>
    have meets : (col.val == (x + n) % 64) = decide (columnOffset x col = n) := by
      rw [beq_eq_decide, decide_eq_decide, columnOffset_eq_iff hn]
    rw [List.range_succ, List.foldl_append, List.foldl_cons, List.foldl_nil, drawBit_pixels, ih (by omega), meets]
    by_cases hcol : columnOffset x col = n
    · simp [hcol]
    · have below : columnOffset x col < n + 1 ↔ columnOffset x col < n := by omega
      simp [hcol, below]

/-- The collision after the first `n` turns: a pixel set before the loop has met a set bit, since each turn meets a pixel
that no earlier turn has changed. -/
theorem drawBits_collided (x : Nat) (b : Byte) (w : BitVec 64) {n : Nat} (hn : n ≤ 64) :
    ((List.range n).foldl (drawBit x b) (w, false)).2 = true ↔
      ∃ col : Fin 64, w.getLsbD col.val = true ∧ columnOffset x col < n ∧ b.getLsbD (7 - columnOffset x col) = true := by
  induction n with
  | zero => simp
  | succ n ih =>
    obtain ⟨turnCol, hturn⟩ : ∃ col : Fin 64, col.val = (x + n) % 64 := ⟨Fin.ofNat 64 (x + n), rfl⟩
    have offset : columnOffset x turnCol = n := (columnOffset_eq_iff hn).2 hturn
    have untouched : ((List.range n).foldl (drawBit x b) (w, false)).1.getLsbD turnCol.val = w.getLsbD turnCol.val := by
      rw [drawBits_pixels x b (w, false) turnCol (by omega), offset]
      simp
    rw [List.range_succ, List.foldl_append, List.foldl_cons, List.foldl_nil, drawBit_collided, ← hturn,
      untouched, Bool.or_eq_true, Bool.and_eq_true, ih (by omega)]
    constructor
    · rintro (⟨col, set, below, bit⟩ | ⟨set, bit⟩)
      · exact ⟨col, set, by omega, bit⟩
      · exact ⟨turnCol, set, by omega, by rwa [offset]⟩
    · rintro ⟨col, set, below, bit⟩
      by_cases hcol : columnOffset x col = n
      · have same : col = turnCol := Fin.ext (((columnOffset_eq_iff hn).1 hcol).trans hturn.symm)
        subst same
        exact .inr ⟨set, by rwa [hcol] at bit⟩
      · exact .inl ⟨col, set, by omega, bit⟩

/-! ### Drawing one row -/

theorem eq_rowIndex_iff {row : Fin 32} {y : Nat} : row = rowIndex y ↔ row.val = y % 32 := Fin.ext_iff

/-- `Draw` on any pixel (R172). -/
theorem drawRow_pixels (x y : Nat) (b : Byte) (g : Grid) (row : Fin 32) (col : Fin 64) :
    ((drawRow x y b g).1.get row).getLsbD col.val =
      ((g.get row).getLsbD col.val ^^ (decide (row.val = y % 32) && spriteBit x b col)) := by
  simp only [← eq_rowIndex_iff]
  by_cases hrow : row = rowIndex y
  · subst hrow
    rw [drawRow_own_row, drawBits_pixels x b _ col (by decide), spriteBit_eq, decide_eq_true rfl, Bool.true_and]
  · rw [drawRow_other_row x y b g row hrow, decide_eq_false hrow, Bool.false_and, Bool.xor_false]

/-- The result of `Draw` (R172). -/
theorem drawRow_collided (x y : Nat) (b : Byte) (g : Grid) :
    (drawRow x y b g).2 = true ↔
      ∃ (row : Fin 32) (col : Fin 64), row.val = y % 32 ∧ (g.get row).getLsbD col.val = true ∧ spriteBit x b col = true := by
  have loop : (drawRow x y b g).2 = ((List.range 8).foldl (drawBit x b) (g.get (rowIndex y), false)).2 := rfl
  simp only [loop, drawBits_collided x b _ (show 8 ≤ 64 by decide), spriteBit_eq, Bool.and_eq_true, decide_eq_true_iff,
    ← eq_rowIndex_iff, exists_and_left, exists_eq_left]

/-- Settles O49: the loop over the eight bits on the row of `y`, and no change on the others. -/
theorem drawXorsOneRow : Obligations.DrawXorsOneRow :=
  fun x y b g => ⟨drawRow_pixels x y b g, drawRow_collided x y b g⟩

/-! ### Drawing twice -/

theorem grid_ext {g g' : Grid}
    (h : ∀ (row : Fin 32) (col : Fin 64), (g.get row).getLsbD col.val = (g'.get row).getLsbD col.val) : g = g' :=
  Vector.ext fun r hr => BitVec.eq_of_getLsbD_eq fun c hc => h ⟨r, hr⟩ ⟨c, hc⟩

/-- The pixels that `Draw` turns on are those of its row that are on afterwards and lie under a set sprite bit. -/
theorem drawRow_sets_iff (x y : Nat) (b : Byte) (g : Grid) (row : Fin 32) (col : Fin 64) :
    ((g.get row).getLsbD col.val = false ∧ ((drawRow x y b g).1.get row).getLsbD col.val = true) ↔
      row.val = y % 32 ∧ ((drawRow x y b g).1.get row).getLsbD col.val = true ∧ spriteBit x b col = true := by
  rw [drawRow_pixels]
  by_cases hrow : row.val = y % 32
  · cases (g.get row).getLsbD col.val <;> simp [hrow]
  · simp [hrow]

/-- Settles O50: XOR with the same bits twice is the identity, and the pixels that collide in the second draw are those
that the first one set. -/
theorem drawingTwiceRestoresDisplay : Obligations.DrawingTwiceRestoresDisplay := by
  intro x y b g
  constructor
  · refine grid_ext fun row col => ?_
    rw [drawRow_pixels, drawRow_pixels, Bool.xor_assoc, Bool.xor_self, Bool.xor_false]
  · simp only [drawRow_collided, drawRow_sets_iff]

/-! ### Clearing -/

theorem decode_cls : decode 0x00E0 = .ok .cls := by decide

theorem setPix_setPc_frame (s : State) (g : Grid) (pc : Word) : Frame [.display] s ((s.setPix g).setPc pc) := by
  intro p hp
  cases p with
  | display => exact absurd List.mem_cons_self hp
  | _ => simp [Keeps]

/-- Settles O48: `00E0` is one write of the display and goes to the next instruction. -/
theorem clearTurnsEveryPixelOff : Obligations.ClearTurnsEveryPixelOff :=
  fun s => ⟨decode_cls, _, exec_cls s, clearDisplay_pixel s, State.setPc_pc _ _, setPix_setPc_frame s blankGrid (s.pc + 2)⟩

end Sys2Proof.Machine

/-! The generator, the timer transfers and the skips on keys (R190, R191, R193 to R195, R201 to R203; O53, O55 to O58). -/

namespace Sys2Proof.Machine

/-! ### One step of the generator -/

/-- Settles O56: both halves are the bits of the next state, below the top and on it. -/
theorem generatorShiftsInFeedbackBit : Obligations.GeneratorShiftsInFeedbackBit := by
  intro r
  constructor
  · intro k hk
    rw [nextRng_getLsbD, if_neg (Nat.ne_of_lt hk)]
  · exact nextRng_getLsbD r 15

/-- The bit that `NextBit()` answers at step `n + 1` is bit 15 of the state after it (R201). -/
theorem iterate_nextRng_getLsbD_top (n : Nat) (r : Word) :
    (nextRng^[n + 1] r).getLsbD 15 = feedbackBit (nextRng^[n] r) := by
  rw [Function.iterate_succ_apply']
  exact nextRng_getLsbD _ 15

/-! ### Seeding -/

/-- Settles O58: the two branches of `Seed`, where discarding bits is iterating the step. -/
theorem seedRejectsZeroAndDiscardsSixteenBits : Obligations.SeedRejectsZeroAndDiscardsSixteenBits := by
  intro value
  constructor
  · intro zero
    exact if_pos zero
  · intro nonzero
    rw [seedRng, if_neg nonzero, advanceRng_eq_iterate]

/-! ### Collecting the bits of a byte -/

/-- The bits of the byte after one more bit has been shifted in. -/
theorem shiftIn_getLsbD (acc : Byte) (b : Bool) {k : Nat} (hk : k < 8) :
    ((acc <<< 1) ||| (BitVec.ofBool b).setWidth 8).getLsbD k = if k = 0 then b else acc.getLsbD (k - 1) := by
  cases k with
  | zero => simp
  | succ k => simp [hk, BitVec.getLsbD_eq_getElem (Nat.lt_of_succ_lt hk)]

/-- Each turn moves the bits collected before it one place up. -/
theorem collectBits_keeps_acc (n : Nat) (acc : Byte) (r : Word) {k : Nat} (hk : n + k < 8) :
    (collectBits n acc r).1.getLsbD (n + k) = acc.getLsbD k := by
  induction n generalizing acc r k with
  | zero => rw [Nat.zero_add, collectBits]
  | succ n ih =>
    rw [collectBits, Nat.add_right_comm, Nat.add_assoc, ih _ _ (by omega), shiftIn_getLsbD _ _ (by omega)]
    exact if_neg (Nat.succ_ne_zero k)

/-- Of `n` collected bits the first one is the highest (R202). -/
theorem collectBits_getLsbD {n j : Nat} (hn : n ≤ 8) (hj : j < n) (acc : Byte) (r : Word) :
    (collectBits n acc r).1.getLsbD (n - 1 - j) = feedbackBit (nextRng^[j] r) := by
  induction n generalizing j acc r with
  | zero => exact absurd hj (Nat.not_lt_zero j)
  | succ n ih =>
    rw [collectBits]
    cases j with
    | zero =>
      have first := collectBits_keeps_acc n ((acc <<< 1) ||| (BitVec.ofBool (feedbackBit r)).setWidth 8) (nextRng r)
        (k := 0) (by omega)
      exact first.trans (shiftIn_getLsbD acc (feedbackBit r) (by decide))
    | succ j =>
      have place : n + 1 - 1 - (j + 1) = n - 1 - j := by omega
      rw [place, ih (by omega) (by omega), Function.iterate_succ_apply]

/-- Settles O57: the bit of each step is collected from the top down, and it is bit 15 of the state after the step. -/
theorem getByteCollectsEightBits : Obligations.GetByteCollectsEightBits := by
  intro r
  refine ⟨collectBits_rng 8 0 r, fun j hj => ?_⟩
  rw [iterate_nextRng_getLsbD_top]
  exact collectBits_getLsbD (Nat.le_refl 8) hj 0 r

/-! ### Decoding the words of the timer transfers and the skips on keys -/

theorem decode_ldVxDt (x : Reg) : decode (formX 0xF x 0x07) = .ok (.ldVxDt x) := by
  simp [decode, decodeF]

theorem decode_ldDtVx (x : Reg) : decode (formX 0xF x 0x15) = .ok (.ldDtVx x) := by
  simp [decode, decodeF]

theorem decode_ldStVx (x : Reg) : decode (formX 0xF x 0x18) = .ok (.ldStVx x) := by
  simp [decode, decodeF]

theorem decode_skp (x : Reg) : decode (formX 0xE x 0x9E) = .ok (.skp x) := by
  simp [decode, decodeE]

theorem decode_sknp (x : Reg) : decode (formX 0xE x 0xA1) = .ok (.sknp x) := by
  simp [decode, decodeE]

/-! ### Timer transfers -/

theorem setDt_setPc_frame (s : State) (b : Byte) (pc : Word) : Frame [.delay] s ((s.setDt b).setPc pc) := by
  intro p hp
  cases p with
  | delay => exact absurd List.mem_cons_self hp
  | _ => simp [Keeps]

theorem setSt_setPc_frame (s : State) (b : Byte) (pc : Word) : Frame [.sound] s ((s.setSt b).setPc pc) := by
  intro p hp
  cases p with
  | sound => exact absurd List.mem_cons_self hp
  | _ => simp [Keeps]

/-- Settles O55: each transfer is one write, of a register or of a timer, and the buzzer reads the `ST` written. -/
theorem timerTransfers : Obligations.TimerTransfers := by
  intro s x
  refine ⟨decode_ldVxDt x, decode_ldDtVx x, decode_ldStVx x, ?_, ?_, ?_⟩
  · exact ⟨_, exec_ldVxDt x s, writesReg_setReg s x s.dt⟩
  · exact ⟨_, exec_ldDtVx x s, rfl, State.setPc_pc _ _, setDt_setPc_frame s (s.reg x) (s.pc + 2)⟩
  · exact ⟨_, exec_ldStVx x s, rfl, buzzer_iff _, State.setPc_pc _ _, setSt_setPc_frame s (s.reg x) (s.pc + 2)⟩

/-! ### Skips on keys -/

/-- A skip on the negation of a condition. -/
theorem skip_pc_not (s : State) (c : Bool) :
    (s.applyDirective (skipIf !c)).pc = if c then s.pc + 2 else s.pc + 4 := by
  cases c <;> rfl

/-- Settles O53: a register below 16 names a key and the instruction is a skip on it or on its negation; any other
register value raises. -/
theorem keySkipsTestOneKey : Obligations.KeySkipsTestOneKey := by
  intro s x
  refine ⟨decode_skp x, decode_sknp x, fun named => ⟨?_, ?_⟩, fun outside => ⟨?_, ?_⟩⟩
  · exact ⟨_, exec_skp x s named, skip_pc s _, skip_frame s _⟩
  · exact ⟨_, exec_sknp x s named, skip_pc_not s _, skip_frame s _⟩
  · exact exec_skp_fault x s (Nat.not_lt.2 outside)
  · exact exec_sknp_fault x s (Nat.not_lt.2 outside)

end Sys2Proof.Machine

/-! A fetched word of the illegal groups latches `UnknownOpcode` (R81, R223; O9). -/

namespace Sys2Proof.Machine

/-! ### The decoder refuses the six groups -/

/-- A word `0x0...` other than `00E0` and `00EE` (R139). -/
theorem decode0_error {op : Word} (hcls : fieldNNN op ≠ 0x0E0) (hret : fieldNNN op ≠ 0x0EE) :
    decode0 op = .error (.unknownOpcode op) := by
  have notCls : op ≠ 0x00E0 := fun h => hcls (by rw [h]; decide)
  have notRet : op ≠ 0x00EE := fun h => hret (by rw [h]; decide)
  simp only [decode0, notCls, notRet, if_false]

theorem decode8_error {op : Word} (h : fieldN op ∈ [0x8#4, 0x9#4, 0xA#4, 0xB#4, 0xC#4, 0xD#4, 0xF#4]) :
    decode8 op = .error (.unknownOpcode op) := by
  simp only [List.mem_cons, List.not_mem_nil, or_false] at h
  rcases h with h | h | h | h | h | h | h <;> simp [decode8, h]

theorem decodeE_error {op : Word} (h : fieldNN op ∉ [0x9E#8, 0xA1#8]) : decodeE op = .error (.unknownOpcode op) := by
  simp only [List.mem_cons, List.not_mem_nil, or_false, not_or] at h
  simp [decodeE, h]

theorem decodeF_error {op : Word}
    (h : fieldNN op ∉ [0x07#8, 0x0A#8, 0x15#8, 0x18#8, 0x1E#8, 0x29#8, 0x33#8, 0x55#8, 0x65#8]) :
    decodeF op = .error (.unknownOpcode op) := by
  simp only [List.mem_cons, List.not_mem_nil, or_false, not_or] at h
  simp [decodeF, h]

/-- Each group of R81 is one refusing path of the decision tree (R74). -/
theorem decode_error_of_inIllegalGroup {op : Word} (h : inIllegalGroup op) :
    decode op = .error (.unknownOpcode op) := by
  obtain ⟨h0, hcls, hret⟩ | ⟨h5, hn⟩ | ⟨h8, hn⟩ | ⟨h9, hn⟩ | ⟨hE, hnn⟩ | ⟨hF, hnn⟩ := h
  · simp only [decode, h0, decode0_error hcls hret]
  · simp only [decode, h5, hn, if_false]
  · simp only [decode, h8, decode8_error hn]
  · simp only [decode, h9, hn, if_false]
  · simp only [decode, hE, decodeE_error hnn]
  · simp only [decode, hF, decodeF_error hnn]

/-! ### The step over an illegal word -/

/-- A fetched word that does not decode only latches the cause (R223, R230). -/
theorem runInstruction_of_decode_error {s : State} {op : Word} {e : DecodeError} (hf : fetch s = .ok op)
    (hd : decode op = .error e) : runInstruction s = .next (s.raise (.unknownOpcode op)) := by
  simp only [runInstruction, hf, hd]
  rfl

/-- Settles O9: the fetch is inside the memory, taking the event and the sample leaves the word at `PC`, and the decoder
refuses that word. -/
theorem illegalWordLatchesUnknownOpcode : Obligations.IllegalWordLatchesUnknownOpcode := by
  intro s k es running hs inside illegal
  have hpc : s.pc.toNat + 1 < 0x1000 := by omega
  have fetched : fetch ((s.setSchedule es).setKeys k) =
      .ok (joinBytes (s.byteAt s.pc.toNat) (s.byteAt (s.pc.toNat + 1))) := fetch_ok hpc
  have unfaulted : (s.setSchedule es).fault = none := running
  rw [step_cpuCycle hs, cpuCycle_runs unfaulted]
  exact runInstruction_of_decode_error fetched (decode_error_of_inIllegalGroup illegal)

end Sys2Proof.Machine

/-! One event of the schedule: a TimerTick counts the timers down, a Reset that fails latches its cause, a CpuCycle runs
the instruction that the two bytes at `PC` decode to (R33, R263, R270; O12, O16, O6). -/

namespace Sys2Proof.Machine

/-! ### One TimerTick -/

theorem timerTick_running {s : State} (h : s.fault = none) :
    timerTick s = (s.setDt (countDown s.dt)).setSt (countDown s.st) := by
  simp only [timerTick, h]

/-- A faulted core ignores a TimerTick (decision D24). -/
theorem timerTick_faulted {s : State} (h : s.fault ≠ none) : timerTick s = s := by
  obtain ⟨f, hf⟩ := Option.ne_none_iff_exists'.1 h
  simp only [timerTick, hf]

/-- Taking an event and writing the timers changes nothing but these. -/
theorem setSchedule_setDt_setSt_frame (s : State) (es : List Event) (d t : Byte) :
    Frame [.delay, .sound, .inputs] s (((s.setSchedule es).setDt d).setSt t) := by
  intro p hp
  cases p with
  | delay | sound | inputs => simp at hp
  | _ => simp [Keeps]

/-! ### Many TimerTicks -/

/-- No tick latches a fault, so each of `n` ticks counts down. -/
theorem iterate_timerTick_timers {s : State} (h : s.fault = none) (n : Nat) :
    (timerTick^[n] s).dt.toNat = s.dt.toNat - n ∧ (timerTick^[n] s).st.toNat = s.st.toNat - n := by
  induction n generalizing s with
  | zero => exact ⟨rfl, rfl⟩
  | succ n ih =>
    have running : ((s.setDt (countDown s.dt)).setSt (countDown s.st)).fault = none := h
    obtain ⟨hdt, hst⟩ := ih running
    rw [Function.iterate_succ_apply, timerTick_running h, hdt, hst]
    simp only [State.setSt_dt, State.setDt_dt, State.setSt_st, countDown_toNat]
    omega

/-- Settles O12: one tick is two saturating count-downs, `n` ticks take `n` off each timer, and a latched fault stops
both. -/
theorem timerTickCountsBothTimersDown : Obligations.TimerTickCountsBothTimersDown := by
  refine ⟨fun s es hs running => ?_, fun s n running => ?_, fun s es hs faulted => ?_⟩
  · have unfaulted : (s.setSchedule es).fault = none := running
    rw [step_timerTick hs, timerTick_running unfaulted]
    exact ⟨_, rfl, countDown_toNat s.dt, countDown_toNat s.st, rfl, rfl, rfl,
      setSchedule_setDt_setSt_frame s es _ _⟩
  · obtain ⟨hdt, hst⟩ := iterate_timerTick_timers running n
    exact ⟨fun h => BitVec.eq_of_toNat_eq (hdt.trans (Nat.sub_eq_zero_of_le h)),
      fun h => BitVec.eq_of_toNat_eq (hst.trans (Nat.sub_eq_zero_of_le h))⟩
  · have latched : (s.setSchedule es).fault ≠ none := faulted
    rw [step_timerTick hs, timerTick_faulted latched]

/-! ### A Reset that fails -/

/-- The last lines of Reset latch a zero seed (R227). -/
theorem startCore_zeroSeed {a : ResetArgs} (h : a.seed = 0) (s : State) : (startCore a s).fault = some .zeroSeed := by
  have rejected : seedRng a.seed = .error .zeroSeed := if_pos h
  simp only [startCore, rejected, State.raise_fault]

/-- Settles O16: a Reset comes to a raise where a load does not fit, and to the rejected seed where both fit. -/
theorem resetFailureLatchesCause : Obligations.ResetFailureLatchesCause := by
  intro s a es hs
  refine ⟨fun fontMisfit => ?_, fun font romMisfit => ?_, fun font rom zero => ?_⟩
  · exact ⟨_, step_reset hs, by rw [resetEvent_fontMisfit fontMisfit, State.raise_fault]⟩
  · exact ⟨_, step_reset hs, by rw [resetEvent_romMisfit font romMisfit, State.raise_fault]⟩
  · exact ⟨_, step_reset hs, by rw [resetEvent_fits font rom, startCore_zeroSeed zero]⟩

/-! ### The checks of a CpuCycle, in their order -/

/-- Taking the event and the sample leaves the bytes that are fetched. -/
theorem fetch_setSchedule_setKeys (s : State) (es : List Event) (k : Word) :
    fetch ((s.setSchedule es).setKeys k) = fetch s := rfl

theorem fetch_of_first_error {s : State} {f : Fault} (h : memRead s s.pc.toNat = .error f) : fetch s = .error f := by
  simp only [fetch, h]

theorem fetch_of_second_error {s : State} {hi : Byte} {f : Fault} (h : memRead s s.pc.toNat = .ok hi)
    (h' : memRead s (s.pc.toNat + 1) = .error f) : fetch s = .error f := by
  simp only [fetch, h, h']

theorem fetch_of_reads {s : State} {hi lo : Byte} (h : memRead s s.pc.toNat = .ok hi)
    (h' : memRead s (s.pc.toNat + 1) = .ok lo) : fetch s = .ok (joinBytes hi lo) := by
  simp only [fetch, h, h']

theorem runInstruction_of_fetch_error {s : State} {f : Fault} (h : fetch s = .error f) :
    runInstruction s = .next (s.raise f) := by
  simp only [runInstruction, h, commit_raised]

theorem runInstruction_of_decode_ok {s : State} {op : Word} {i : Instr} (hf : fetch s = .ok op)
    (hd : decode op = .ok i) : runInstruction s = exec i s := by
  simp only [runInstruction, hf, hd]

theorem step_cpuCycle_faulted {s : State} {k : Word} {es : List Event} (hs : s.schedule = .cpuCycle k :: es)
    (h : s.fault ≠ none) : step s = .next (s.setSchedule es) := by
  obtain ⟨f, hf⟩ := Option.ne_none_iff_exists'.1 h
  have latched : (s.setSchedule es).fault = some f := hf
  rw [step_cpuCycle hs, cpuCycle_frozen latched]

theorem step_cpuCycle_running {s : State} {k : Word} {es : List Event} (hs : s.schedule = .cpuCycle k :: es)
    (h : s.fault = none) : step s = runInstruction ((s.setSchedule es).setKeys k) := by
  have unfaulted : (s.setSchedule es).fault = none := h
  rw [step_cpuCycle hs, cpuCycle_runs unfaulted]

/-- Settles O6: the latch is tested first, then each of the two reads and the decoder in turn; where all pass, the
instruction executes. -/
theorem stepRunsDecodedInstruction : Obligations.StepRunsDecodedInstruction := by
  intro s k es hs
  refine ⟨step_cpuCycle_faulted hs, fun running => ?_⟩
  rw [step_cpuCycle_running hs running]
  have sampled := fetch_setSchedule_setKeys s es k
  refine ⟨fun f first => ?_, fun hi f first second => ?_,
    fun hi lo first second => ⟨fun i legal => ?_, fun e illegal => ?_⟩⟩
  · exact runInstruction_of_fetch_error (sampled.trans (fetch_of_first_error first))
  · exact runInstruction_of_fetch_error (sampled.trans (fetch_of_second_error first second))
  · exact runInstruction_of_decode_ok (sampled.trans (fetch_of_reads first second)) legal
  · exact runInstruction_of_decode_error (sampled.trans (fetch_of_reads first second)) illegal

end Sys2Proof.Machine

/-! The encoder and the decoder undo each other, and the decoder follows the masks of the opcode map (R72, R74, R75,
R81; O2, O3, O4, O5). -/

namespace Sys2Proof.Machine

/-! ### Decoding what was encoded -/

/-- One path of the decision tree for each instruction (R74): the family nibble, then the nibble or byte that selects.
-/
theorem decode_encode (i : Instr) : decode (encode i) = .ok i := by
  cases i with
  | cls => exact decode_cls
  | ret => exact decode_ret
  | jp | call | ldI | jpV0 => simp [encode, decode]
  | seImm | sneImm | ldImm | addImm | rnd => simp [encode, decode]
  | seReg | sneReg | drw => simp [encode, decode]
  | ldReg | orReg | andReg | xorReg | addReg | subReg | shr | subnReg | shl => simp [encode, decode, decode8]
  | skp | sknp => simp [encode, decode, decodeE]
  | ldVxDt | ldVxK | ldDtVx | ldStVx | addI | ldF | ldB | storeRegs | loadRegs => simp [encode, decode, decodeF]

/-- Settles O2: the fields of each format read back, and joining the two bytes of a word gives the word. -/
theorem decodeInvertsEncode : Obligations.DecodeInvertsEncode := by
  intro i
  refine ⟨decode_encode i, fun rest => ?_⟩
  simp only [encodeBytes, List.cons_append, List.nil_append, decodeBytes, joinBytes_high_low, decode_encode, Except.map]

/-! ### A word is made of its fields -/

theorem formNNN_fields {op : Word} {n3 : BitVec 4} (h : fieldN3 op = n3.toNat) : formNNN n3 (fieldNNN op) = op := by
  obtain rfl : op.extractLsb' 12 4 = n3 := BitVec.eq_of_toNat_eq h
  apply BitVec.eq_of_getLsbD_eq
  intro k hk
  simp only [formNNN, fieldNNN, BitVec.getLsbD_append, BitVec.getLsbD_extractLsb']
  interval_cases k <;> simp

theorem formXNN_fields {op : Word} {n3 : BitVec 4} (h : fieldN3 op = n3.toNat) :
    formXNN n3 (fieldX op) (fieldNN op) = op := by
  obtain rfl : op.extractLsb' 12 4 = n3 := BitVec.eq_of_toNat_eq h
  apply BitVec.eq_of_getLsbD_eq
  intro k hk
  simp only [formXNN, fieldX, fieldNN, nibbleOfReg_regOfNibble, BitVec.getLsbD_append, BitVec.getLsbD_extractLsb']
  interval_cases k <;> simp

theorem formXYN_fields {op : Word} {n3 n : BitVec 4} (h : fieldN3 op = n3.toNat) (hn : fieldN op = n) :
    formXYN n3 (fieldX op) (fieldY op) n = op := by
  obtain rfl : op.extractLsb' 12 4 = n3 := BitVec.eq_of_toNat_eq h
  subst hn
  apply BitVec.eq_of_getLsbD_eq
  intro k hk
  simp only [formXYN, fieldX, fieldY, fieldN, nibbleOfReg_regOfNibble, BitVec.getLsbD_append,
    BitVec.getLsbD_extractLsb']
  interval_cases k <;> simp

theorem formX_fields {op : Word} {n3 : BitVec 4} {fn : Byte} (h : fieldN3 op = n3.toNat) (hfn : fieldNN op = fn) :
    formX n3 (fieldX op) fn = op := by
  rw [formX_eq, ← hfn, formXNN_fields h]

/-! ### Encoding what was decoded, family by family -/

theorem encode_of_decode0 {op : Word} {i : Instr} (h : decode0 op = .ok i) : encode i = op := by
  unfold decode0 at h
  split at h
  · next hop => cases h; exact hop.symm
  · split at h
    · next hop => cases h; exact hop.symm
    · cases h

theorem encode_of_decode8 {op : Word} {i : Instr} (h3 : fieldN3 op = 0x8) (h : decode8 op = .ok i) :
    encode i = op := by
  unfold decode8 at h
  split at h <;> cases h
  all_goals
    next hn => exact formXYN_fields h3 (BitVec.eq_of_toNat_eq hn)

theorem encode_of_decodeE {op : Word} {i : Instr} (h3 : fieldN3 op = 0xE) (h : decodeE op = .ok i) :
    encode i = op := by
  unfold decodeE at h
  repeat' split at h
  all_goals cases h
  all_goals
    next hnn => exact formX_fields h3 hnn

theorem encode_of_decodeF {op : Word} {i : Instr} (h3 : fieldN3 op = 0xF) (h : decodeF op = .ok i) :
    encode i = op := by
  unfold decodeF at h
  repeat' split at h
  all_goals cases h
  all_goals
    next hnn => exact formX_fields h3 hnn

theorem encode_of_decode {op : Word} {i : Instr} (h : decode op = .ok i) : encode i = op := by
  unfold decode at h
  split at h
  case h_1 => exact encode_of_decode0 h
  case h_6 | h_10 =>
    split at h
    · next h3 hn => cases h; exact formXYN_fields h3 hn
    · cases h
  case h_9 h3 => exact encode_of_decode8 h3 h
  case h_14 h3 => cases h; exact formXYN_fields h3 rfl
  case h_15 h3 => exact encode_of_decodeE h3 h
  case h_16 h3 => exact encode_of_decodeF h3 h
  case h_17 => cases h
  case h_2 h3 | h_3 h3 | h_11 h3 | h_12 h3 => cases h; exact formNNN_fields h3
  case h_4 h3 | h_5 h3 | h_7 h3 | h_8 h3 | h_13 h3 => cases h; exact formXNN_fields h3

/-- Settles O3: on every path that answers an instruction, the fields read and the constants tested make up the word. -/
theorem encodeInvertsDecode : Obligations.EncodeInvertsDecode :=
  fun _ _ h => encode_of_decode h

/-! ### The illegal words -/

theorem fieldN3_lt (op : Word) : fieldN3 op < 16 := (op.extractLsb' 12 4).isLt

/-- The twelve bits below the family nibble 0 are the word. -/
theorem eq_of_fieldNNN {op op' : Word} (h : fieldN3 op = 0x0) (h' : fieldN3 op' = 0x0)
    (hn : fieldNNN op = fieldNNN op') : op = op' := by
  rw [← formNNN_fields (n3 := 0) h, ← formNNN_fields (n3 := 0) h', hn]

/-- The nibbles that select no instruction of the family 8 (R81). -/
theorem illegalNibble_of_decode8_error {op : Word} {e : DecodeError} (h : decode8 op = .error e) :
    fieldN op ∈ [0x8#4, 0x9#4, 0xA#4, 0xB#4, 0xC#4, 0xD#4, 0xF#4] := by
  unfold decode8 at h
  have others : ∀ n : BitVec 4, n.toNat ≠ 0x0 → n.toNat ≠ 0x1 → n.toNat ≠ 0x2 → n.toNat ≠ 0x3 → n.toNat ≠ 0x4 →
      n.toNat ≠ 0x5 → n.toNat ≠ 0x6 → n.toNat ≠ 0x7 → n.toNat ≠ 0xE →
      n ∈ [0x8#4, 0x9#4, 0xA#4, 0xB#4, 0xC#4, 0xD#4, 0xF#4] := by decide
  split at h
  case h_10 h0 h1 h2 h3 h4 h5 h6 h7 hE => exact others _ h0 h1 h2 h3 h4 h5 h6 h7 hE
  all_goals cases h

theorem illegalByte_of_decodeE_error {op : Word} {e : DecodeError} (h : decodeE op = .error e) :
    fieldNN op ∉ [0x9E#8, 0xA1#8] := by
  unfold decodeE at h
  repeat' split at h
  all_goals simp_all

theorem illegalByte_of_decodeF_error {op : Word} {e : DecodeError} (h : decodeF op = .error e) :
    fieldNN op ∉ [0x07#8, 0x0A#8, 0x15#8, 0x18#8, 0x1E#8, 0x29#8, 0x33#8, 0x55#8, 0x65#8] := by
  unfold decodeF at h
  repeat' split at h
  all_goals simp_all

theorem notListed_of_decode0_error {op : Word} {e : DecodeError} (h3 : fieldN3 op = 0x0) (h : decode0 op = .error e) :
    fieldNNN op ≠ 0x0E0 ∧ fieldNNN op ≠ 0x0EE := by
  have notWord {op' : Word} {i : Instr} (hi : decode op' = .ok i) (h3' : fieldN3 op' = 0x0) (hd : decode0 op' = .ok i) :
      fieldNNN op ≠ fieldNNN op' := by
    intro hn
    rw [eq_of_fieldNNN h3 h3' hn, hd] at h
    cases h
  exact ⟨notWord (op' := 0x00E0) decode_cls (by decide) (by decide),
    notWord (op' := 0x00EE) decode_ret (by decide) (by decide)⟩

/-- Each refusing path of the decision tree is one of the groups of R81. -/
theorem inIllegalGroup_of_decode_error {op : Word} {e : DecodeError} (h : decode op = .error e) :
    inIllegalGroup op := by
  unfold decode at h
  split at h
  case h_1 h3 => exact .inl ⟨h3, notListed_of_decode0_error h3 h⟩
  case h_6 h3 =>
    split at h
    · cases h
    · next hn => exact .inr (.inl ⟨h3, hn⟩)
  case h_9 h3 => exact .inr (.inr (.inl ⟨h3, illegalNibble_of_decode8_error h⟩))
  case h_10 h3 =>
    split at h
    · cases h
    · next hn => exact .inr (.inr (.inr (.inl ⟨h3, hn⟩)))
  case h_15 h3 => exact .inr (.inr (.inr (.inr (.inl ⟨h3, illegalByte_of_decodeE_error h⟩))))
  case h_16 h3 => exact .inr (.inr (.inr (.inr (.inr ⟨h3, illegalByte_of_decodeF_error h⟩))))
  case h_17 =>
    have := fieldN3_lt op
    simp only [imp_false] at *
    omega
  all_goals cases h

/-- Settles O5: the refusing paths of the decision tree are the six groups, and no other path refuses. -/
theorem illegalWordsAreTheListedGroups : Obligations.IllegalWordsAreTheListedGroups :=
  fun _ => ⟨inIllegalGroup_of_decode_error, decode_error_of_inIllegalGroup⟩

/-! ### The rows of the opcode map -/

/-- Every instruction's word selects the instruction's row, which is one of the map. -/
theorem tableRow (i : Instr) : i.row ∈ opcodeTable ∧ encode i &&& i.row.mask = i.row.code := by
  have selects : Laws.TableRow.Statement i := by
    cases i with
    | cls => exact Laws.TableRow.cls
    | ret => exact Laws.TableRow.ret
    | jp nnn => exact Laws.TableRow.jp nnn
    | call nnn => exact Laws.TableRow.call nnn
    | seImm x nn => exact Laws.TableRow.seImm x nn
    | sneImm x nn => exact Laws.TableRow.sneImm x nn
    | seReg x y => exact Laws.TableRow.seReg x y
    | ldImm x nn => exact Laws.TableRow.ldImm x nn
    | addImm x nn => exact Laws.TableRow.addImm x nn
    | ldReg x y => exact Laws.TableRow.ldReg x y
    | orReg x y => exact Laws.TableRow.orReg x y
    | andReg x y => exact Laws.TableRow.andReg x y
    | xorReg x y => exact Laws.TableRow.xorReg x y
    | addReg x y => exact Laws.TableRow.addReg x y
    | subReg x y => exact Laws.TableRow.subReg x y
    | shr x y => exact Laws.TableRow.shr x y
    | subnReg x y => exact Laws.TableRow.subnReg x y
    | shl x y => exact Laws.TableRow.shl x y
    | sneReg x y => exact Laws.TableRow.sneReg x y
    | ldI nnn => exact Laws.TableRow.ldI nnn
    | jpV0 nnn => exact Laws.TableRow.jpV0 nnn
    | rnd x nn => exact Laws.TableRow.rnd x nn
    | drw x y n => exact Laws.TableRow.drw x y n
    | skp x => exact Laws.TableRow.skp x
    | sknp x => exact Laws.TableRow.sknp x
    | ldVxDt x => exact Laws.TableRow.ldVxDt x
    | ldVxK x => exact Laws.TableRow.ldVxK x
    | ldDtVx x => exact Laws.TableRow.ldDtVx x
    | ldStVx x => exact Laws.TableRow.ldStVx x
    | addI x => exact Laws.TableRow.addI x
    | ldF x => exact Laws.TableRow.ldF x
    | ldB x => exact Laws.TableRow.ldB x
    | storeRegs x => exact Laws.TableRow.storeRegs x
    | loadRegs x => exact Laws.TableRow.loadRegs x
  obtain ⟨mem, masked⟩ := selects
  exact ⟨mem, by simpa [OpRow.selects] using masked⟩

/-- A masked word that equals a row's code has the nibbles of the code where the mask is set. -/
theorem getLsbD_of_masked {op m c : Word} (h : op &&& m = c) {k : Nat} (hm : m.getLsbD k = true) :
    op.getLsbD k = c.getLsbD k := by
  rw [← h, BitVec.getLsbD_and, hm, Bool.and_true]

theorem fieldN3_of_masked {op m c : Word} (h : op &&& m = c) (hm : ∀ k < 4, m.getLsbD (12 + k) = true) :
    fieldN3 op = fieldN3 c := by
  refine congrArg BitVec.toNat (BitVec.eq_of_getLsbD_eq fun k hk => ?_)
  simp only [BitVec.getLsbD_extractLsb', hk, decide_true, Bool.true_and, getLsbD_of_masked h (hm k hk)]

theorem fieldN_of_masked {op m c : Word} (h : op &&& m = c) (hm : ∀ k < 4, m.getLsbD k = true) :
    fieldN op = fieldN c := by
  refine BitVec.eq_of_getLsbD_eq fun k hk => ?_
  simp only [fieldN, BitVec.getLsbD_extractLsb', Nat.zero_add, hk, decide_true, Bool.true_and,
    getLsbD_of_masked h (hm k hk)]

theorem fieldNN_of_masked {op m c : Word} (h : op &&& m = c) (hm : ∀ k < 8, m.getLsbD k = true) :
    fieldNN op = fieldNN c := by
  refine BitVec.eq_of_getLsbD_eq fun k hk => ?_
  simp only [fieldNN, BitVec.getLsbD_extractLsb', Nat.zero_add, hk, decide_true, Bool.true_and,
    getLsbD_of_masked h (hm k hk)]

/-- The row's mask shows the nibbles that tell its words from the illegal ones of their family (R81). -/
def CoversGroups (r : OpRow) : Prop :=
  (∀ k < 4, r.mask.getLsbD (12 + k) = true) ∧
  (fieldN3 r.code = 0x0 → r.mask = 0xFFFF) ∧
  (fieldN3 r.code = 0x5 ∨ fieldN3 r.code = 0x8 ∨ fieldN3 r.code = 0x9 → ∀ k < 4, r.mask.getLsbD k = true) ∧
  (fieldN3 r.code = 0xE ∨ fieldN3 r.code = 0xF → ∀ k < 8, r.mask.getLsbD k = true)

theorem opcodeTable_coversGroups : ∀ r ∈ opcodeTable, CoversGroups r := by
  unfold CoversGroups
  decide

theorem opcodeTable_code_legal : ∀ r ∈ opcodeTable, ¬inIllegalGroup r.code := by
  unfold inIllegalGroup
  decide

/-- A word that selects a covering row lies in an illegal group only if the row's code does. -/
theorem inIllegalGroup_code_of_covers {r : OpRow} (hr : CoversGroups r) {op : Word}
    (h : op &&& r.mask = r.code) (illegal : inIllegalGroup op) : inIllegalGroup r.code := by
  obtain ⟨top, all, low, byte⟩ := hr
  rw [inIllegalGroup, fieldN3_of_masked h top] at illegal
  obtain ⟨h0, hn⟩ | ⟨h5, hn⟩ | ⟨h8, hn⟩ | ⟨h9, hn⟩ | ⟨hE, hnn⟩ | ⟨hF, hnn⟩ := illegal
  · have same : op = r.code := by rw [← h, all h0]; exact (BitVec.and_allOnes (x := op)).symm
    exact .inl ⟨h0, same ▸ hn⟩
  · rw [fieldN_of_masked h (low (.inl h5))] at hn
    exact .inr (.inl ⟨h5, hn⟩)
  · rw [fieldN_of_masked h (low (.inr (.inl h8)))] at hn
    exact .inr (.inr (.inl ⟨h8, hn⟩))
  · rw [fieldN_of_masked h (low (.inr (.inr h9)))] at hn
    exact .inr (.inr (.inr (.inl ⟨h9, hn⟩)))
  · rw [fieldNN_of_masked h (byte (.inl hE))] at hnn
    exact .inr (.inr (.inr (.inr (.inl ⟨hE, hnn⟩))))
  · rw [fieldNN_of_masked h (byte (.inr hF))] at hnn
    exact .inr (.inr (.inr (.inr (.inr ⟨hF, hnn⟩))))

theorem decode_ok_of_selects {op : Word} {r : OpRow} (hr : r ∈ opcodeTable) (h : op &&& r.mask = r.code) :
    ∃ i, decode op = .ok i := by
  cases hd : decode op with
  | ok i => exact ⟨i, rfl⟩
  | error e =>
    have illegal := inIllegalGroup_code_of_covers (opcodeTable_coversGroups r hr) h (inIllegalGroup_of_decode_error hd)
    exact absurd illegal (opcodeTable_code_legal r hr)

/-- Where both masks are set the two codes differ. -/
def Clashes (r q : OpRow) : Prop := r.code &&& q.mask ≠ q.code &&& r.mask

theorem opcodeTable_clashes : opcodeTable.Pairwise Clashes := by
  unfold Clashes
  decide

theorem not_selects_both_of_clashes {r q : OpRow} (h : Clashes r q) (op : Word) :
    ¬(op &&& r.mask = r.code ∧ op &&& q.mask = q.code) := by
  rintro ⟨hr, hq⟩
  refine h ?_
  rw [← hr, ← hq, BitVec.and_assoc, BitVec.and_assoc, BitVec.and_comm r.mask]

theorem row_unique {op : Word} {r q : OpRow} (hr : r ∈ opcodeTable) (hq : q ∈ opcodeTable)
    (hrop : op &&& r.mask = r.code) (hqop : op &&& q.mask = q.code) : r = q := by
  by_contra hne
  have clashes_symm : Std.Symm Clashes := ⟨fun _ _ => Ne.symm⟩
  exact not_selects_both_of_clashes (opcodeTable_clashes.forall hr hq hne) op ⟨hrop, hqop⟩

/-- Settles O4: a row that a word selects rules out the illegal groups, so the word decodes; the instruction it
decodes to has the word as its encoding and so its own row is selected; and no two rows are selected at once. -/
theorem decoderFollowsOpcodeMap : Obligations.DecoderFollowsOpcodeMap := by
  refine ⟨by decide, fun op r hr => ⟨fun h => ?_, ?_⟩, opcodeTable_clashes.imp not_selects_both_of_clashes⟩
  · obtain ⟨i, hi⟩ := decode_ok_of_selects hr h
    obtain ⟨hrow, hsel⟩ := tableRow i
    rw [encode_of_decode hi] at hsel
    exact ⟨i, row_unique hrow hr hsel h, hi⟩
  · rintro ⟨i, rfl, hi⟩
    rw [← encode_of_decode hi]
    exact (tableRow i).2

end Sys2Proof.Machine

/-! What executing one instruction can do to the state: the parts it leaves, where it puts `PC`, what it raises (R25,
R141, R229, R231; O22, O26, O27, O28). -/

namespace Sys2Proof.Machine

/-! ### The ends of the instructions that can raise, or wait -/

theorem exec_call_forms {nnn : BitVec 12} {s t : State} (h : exec (.call nnn) s = .next t) :
    (∃ room : s.sp.val < 16,
      t = (s.setStack (s.stack.set s.sp.val (s.pc + 2) room) ⟨s.sp.val + 1, by omega⟩).setPc (zextNNN nnn)) ∨
    t = s.raise .stackOverflow := by
  by_cases room : s.sp.val < 16
  · cases (exec_call nnn s room).symm.trans h
    exact .inl ⟨room, rfl⟩
  · cases (exec_call_full nnn s room).symm.trans h
    exact .inr rfl

theorem exec_ret_forms {s t : State} (h : exec .ret s = .next t) :
    (∃ used : 0 < s.sp.val,
      t = (s.setStack s.stack ⟨s.sp.val - 1, by omega⟩).setPc (s.stack[s.sp.val - 1]'(by omega))) ∨
    t = s.raise .stackUnderflow := by
  by_cases used : 0 < s.sp.val
  · cases (exec_ret s used).symm.trans h
    exact .inl ⟨used, rfl⟩
  · cases (exec_ret_empty s used).symm.trans h
    exact .inr rfl

theorem exec_skp_forms {x : Reg} {s t : State} (h : exec (.skp x) s = .next t) :
    (∃ c, t = s.applyDirective (skipIf c)) ∨ t = s.raise (.keyIndexOutOfRange (s.reg x)) := by
  by_cases named : (s.reg x).toNat < 16
  · cases (exec_skp x s named).symm.trans h
    exact .inl ⟨_, rfl⟩
  · cases (exec_skp_fault x s named).symm.trans h
    exact .inr rfl

theorem exec_sknp_forms {x : Reg} {s t : State} (h : exec (.sknp x) s = .next t) :
    (∃ c, t = s.applyDirective (skipIf c)) ∨ t = s.raise (.keyIndexOutOfRange (s.reg x)) := by
  by_cases named : (s.reg x).toNat < 16
  · cases (exec_sknp x s named).symm.trans h
    exact .inl ⟨_, rfl⟩
  · cases (exec_sknp_fault x s named).symm.trans h
    exact .inr rfl

theorem exec_ldVxK_forms {x : Reg} {s t : State} (h : exec (.ldVxK x) s = .next t) :
    t = s ∨ ∃ b, t = (s.setReg x b).setPc (s.pc + 2) := by
  cases held : heldKey .levelLowest s with
  | none =>
    cases (exec_ldVxK_wait x s held).symm.trans h
    exact .inl rfl
  | some k =>
    cases (exec_ldVxK x s k held).symm.trans h
    exact .inr ⟨_, rfl⟩

theorem endState_forms {r : State × Option Fault} {u : State} {c : Prop} [Decidable c] {a : Word} (hu : r.1 = u)
    (hf : r.2 = if c then none else some (.addressOutOfRange a)) :
    endState r = u.setPc (u.pc + 2) ∨ ∃ a, endState r = u.raise (.addressOutOfRange a) := by
  obtain ⟨u', f'⟩ := r
  subst hu hf
  by_cases hc : c
  · exact .inl (by simp only [endState, hc, if_true])
  · exact .inr ⟨a, by simp only [endState, hc, if_false]⟩

theorem exec_ldB_forms {x : Reg} {s t : State} (h : exec (.ldB x) s = .next t) :
    ∃ m, t = (s.setMem m).setPc (s.pc + 2) ∨ ∃ a, t = (s.setMem m).raise (.addressOutOfRange a) := by
  obtain ⟨m, hm, -, hf⟩ := forEach_storeDigit (s.reg x) s 3
  cases (exec_ldB x s).symm.trans h
  exact ⟨m, endState_forms hm hf⟩

theorem exec_storeRegs_forms {x : Reg} {s t : State} (h : exec (.storeRegs x) s = .next t) :
    ∃ m, t = (s.setMem m).setPc (s.pc + 2) ∨ ∃ a, t = (s.setMem m).raise (.addressOutOfRange a) := by
  obtain ⟨m, hm, -, hf⟩ := forEach_storeReg s (x.val + 1)
  cases (exec_storeRegs x s).symm.trans h
  exact ⟨m, endState_forms hm hf⟩

/-- Either way a load writes no register above `VX` (R157). -/
theorem exec_loadRegs_forms {x : Reg} {s t : State} (h : exec (.loadRegs x) s = .next t) :
    ∃ v : Vector Byte 16, (∀ r, x < r → v.get r = s.reg r) ∧
      (t = (s.withRegs v).setPc (s.pc + 2) ∨ ∃ a, t = (s.withRegs v).raise (.addressOutOfRange a)) := by
  obtain ⟨v, hv, hreg, hf⟩ := forEach_loadReg s (x.val + 1) x.isLt
  cases (exec_loadRegs x s).symm.trans h
  refine ⟨v, fun r hr => ?_, endState_forms hv hf⟩
  have above : ¬r.val < inRange s (x.val + 1) := by
    have := Fin.lt_def.1 hr
    unfold inRange
    omega
  rw [hreg, if_neg above]

/-- A draw writes the display, and `VF` only where it completes; with no rows it completes (R176). -/
theorem exec_drw_forms {x y : Reg} {n : BitVec 4} {s t : State} (h : exec (.drw x y n) s = .next t) :
    ∃ g, (∃ c, t = ((s.setPix g).setFlag c).setPc (s.pc + 2)) ∨
      n ≠ 0 ∧ ∃ a, t = (s.setPix g).raise (.addressOutOfRange a) := by
  obtain ⟨g, hg⟩ := sprite_setPix x y n s
  refine ⟨g, ?_⟩
  cases hf : (sprite x y n s).2 with
  | none =>
    rw [exec_drw, hf, hg] at h
    cases h
    exact .inl ⟨_, rfl⟩
  | some f =>
    obtain ⟨a, rfl⟩ := sprite_raises hf
    rw [exec_drw, hf, hg] at h
    cases h
    refine .inr ⟨?_, a, rfl⟩
    rintro rfl
    cases hf

/-! ### Parts left as they are -/

/-- The fields of the part are the same in both states. -/
def SameField (s t : State) : Part → Prop
  | .regs => t.v = s.v
  | .index => t.i = s.i
  | .entries => t.stack = s.stack
  | .sp => t.sp = s.sp
  | .delay => t.dt = s.dt
  | .sound => t.st = s.st
  | .rng => t.rng = s.rng
  | .fontBase => t.fontBase = s.fontBase
  | .memory => t.mem = s.mem
  | .display => t.pix = s.pix
  | .fault => t.fault = s.fault
  | .inputs => t.keys = s.keys ∧ t.schedule = s.schedule

/-- Every part outside `changed` has the same fields in `t` as in `s`; `PC` may change. -/
def SameFields (changed : List Part) (s t : State) : Prop := ∀ p, p ∉ changed → SameField s t p

theorem SameField.keeps {s t : State} {p : Part} (h : SameField s t p) : Keeps s t p := by
  cases p with
  | regs => exact fun r => congrArg (·.get r) h
  | entries => exact fun k => congrArg (·.get k) h
  | memory => exact fun a => congrArg (Memory.read · a) h
  | display => exact fun row col => congrArg (fun g : Grid => (g.get row).getLsbD col) h
  | _ => exact h

/-- Equal fields read alike. -/
theorem SameFields.frame {changed : List Part} {s t : State} (h : SameFields changed s t) : Frame changed s t :=
  fun p hp => (h p hp).keeps

/-! Each update of the state keeps the fields of every part but its own. -/

namespace SameFields

variable {changed : List Part} {s t : State}

theorem refl (changed : List Part) (s : State) : SameFields changed s s := by
  intro p _
  cases p with
  | inputs => exact ⟨rfl, rfl⟩
  | _ => rfl

theorem setPc (h : SameFields changed s t) (a : Word) : SameFields changed s (t.setPc a) := by
  intro p hp
  cases p <;> exact h _ hp

theorem withRegs (h : SameFields changed s t) (hc : Part.regs ∈ changed) (v : Vector Byte 16) :
    SameFields changed s (t.withRegs v) := by
  intro p hp
  cases p with
  | regs => exact absurd hc hp
  | _ => exact h _ hp

theorem setReg (h : SameFields changed s t) (hc : Part.regs ∈ changed) (x : Reg) (b : Byte) :
    SameFields changed s (t.setReg x b) :=
  h.withRegs hc _

theorem setFlag (h : SameFields changed s t) (hc : Part.regs ∈ changed) (f : Bool) :
    SameFields changed s (t.setFlag f) :=
  h.setReg hc vf _

theorem setResult (h : SameFields changed s t) (hc : Part.regs ∈ changed) (x : Reg) (b : Byte) (f : Bool) :
    SameFields changed s (t.setResult x b f) :=
  (h.setReg hc x b).setFlag hc f

theorem setI (h : SameFields changed s t) (hc : Part.index ∈ changed) (a : Word) : SameFields changed s (t.setI a) := by
  intro p hp
  cases p with
  | index => exact absurd hc hp
  | _ => exact h _ hp

theorem setStack (h : SameFields changed s t) (he : Part.entries ∈ changed) (hsp : Part.sp ∈ changed)
    (e : Vector Word 16) (n : Fin 17) : SameFields changed s (t.setStack e n) := by
  intro p hp
  cases p with
  | entries => exact absurd he hp
  | sp => exact absurd hsp hp
  | _ => exact h _ hp

/-- A new `SP` over the same entries. -/
theorem setSp (h : SameFields changed s t) (hc : Part.sp ∈ changed) (n : Fin 17) :
    SameFields changed s (t.setStack t.stack n) := by
  intro p hp
  cases p with
  | sp => exact absurd hc hp
  | _ => exact h _ hp

theorem setDt (h : SameFields changed s t) (hc : Part.delay ∈ changed) (b : Byte) :
    SameFields changed s (t.setDt b) := by
  intro p hp
  cases p with
  | delay => exact absurd hc hp
  | _ => exact h _ hp

theorem setSt (h : SameFields changed s t) (hc : Part.sound ∈ changed) (b : Byte) :
    SameFields changed s (t.setSt b) := by
  intro p hp
  cases p with
  | sound => exact absurd hc hp
  | _ => exact h _ hp

theorem setRng (h : SameFields changed s t) (hc : Part.rng ∈ changed) (r : Word) :
    SameFields changed s (t.setRng r) := by
  intro p hp
  cases p with
  | rng => exact absurd hc hp
  | _ => exact h _ hp

theorem setMem (h : SameFields changed s t) (hc : Part.memory ∈ changed) (m : Memory) :
    SameFields changed s (t.setMem m) := by
  intro p hp
  cases p with
  | memory => exact absurd hc hp
  | _ => exact h _ hp

theorem setPix (h : SameFields changed s t) (hc : Part.display ∈ changed) (g : Grid) :
    SameFields changed s (t.setPix g) := by
  intro p hp
  cases p with
  | display => exact absurd hc hp
  | _ => exact h _ hp

theorem raise (h : SameFields changed s t) (hc : Part.fault ∈ changed) (f : Fault) :
    SameFields changed s (t.raise f) := by
  intro p hp
  cases p with
  | fault => exact absurd hc hp
  | _ => exact h _ hp

theorem applyDirective (h : SameFields changed s t) (d : Directive) : SameFields changed s (t.applyDirective d) := by
  cases d with
  | wait => exact h
  | next | skip | jump => exact h.setPc _

end SameFields

theorem mem_second {p q : Part} {ps : List Part} : q ∈ p :: q :: ps := .tail _ (.head _)

theorem mem_third {p q r : Part} {ps : List Part} : r ∈ p :: q :: r :: ps := .tail _ mem_second

/-- An instruction changes no field of a part that the table of 10_state.md does not let it write. -/
theorem exec_sameFields {i : Instr} {s t : State} (h : exec i s = .next t) : SameFields (writtenParts i) s t := by
  have start := SameFields.refl (writtenParts i) s
  cases i with
  | jp | jpV0 => cases h; exact start.setPc _
  | seImm | sneImm | seReg | sneReg => cases h; exact start.applyDirective _
  | ldImm | addImm | ldReg | orReg | andReg | xorReg | ldVxDt => cases h; exact (start.setReg (.head _) _ _).setPc _
  | addReg | subReg | subnReg | shr | shl => cases h; exact (start.setResult (.head _) _ _ _).setPc _
  | ldI | addI | ldF => cases h; exact (start.setI (.head _) _).setPc _
  | ldDtVx => cases h; exact (start.setDt (.head _) _).setPc _
  | ldStVx => cases h; exact (start.setSt (.head _) _).setPc _
  | cls => cases h; exact (start.setPix (.head _) _).setPc _
  | rnd => cases h; exact ((start.setRng mem_second _).setReg (.head _) _ _).setPc _
  | call nnn =>
    obtain ⟨room, rfl⟩ | rfl := exec_call_forms h
    · exact (start.setStack (.head _) mem_second _ _).setPc _
    · exact start.raise mem_third _
  | ret =>
    obtain ⟨used, rfl⟩ | rfl := exec_ret_forms h
    · exact (start.setSp (.head _) _).setPc _
    · exact start.raise mem_second _
  | skp x =>
    obtain ⟨c, rfl⟩ | rfl := exec_skp_forms h
    · exact start.applyDirective _
    · exact start.raise (.head _) _
  | sknp x =>
    obtain ⟨c, rfl⟩ | rfl := exec_sknp_forms h
    · exact start.applyDirective _
    · exact start.raise (.head _) _
  | ldVxK x =>
    obtain rfl | ⟨b, rfl⟩ := exec_ldVxK_forms h
    · exact start
    · exact (start.setReg (.head _) _ _).setPc _
  | ldB x =>
    obtain ⟨m, rfl | ⟨a, rfl⟩⟩ := exec_ldB_forms h
    · exact (start.setMem (.head _) _).setPc _
    · exact (start.setMem (.head _) _).raise mem_second _
  | storeRegs x =>
    obtain ⟨m, rfl | ⟨a, rfl⟩⟩ := exec_storeRegs_forms h
    · exact (start.setMem (.head _) _).setPc _
    · exact (start.setMem (.head _) _).raise mem_second _
  | loadRegs x =>
    obtain ⟨v, -, rfl | ⟨a, rfl⟩⟩ := exec_loadRegs_forms h
    · exact (start.withRegs (.head _) _).setPc _
    · exact (start.withRegs (.head _) _).raise mem_second _
  | drw x y n =>
    obtain ⟨g, ⟨c, rfl⟩ | ⟨-, a, rfl⟩⟩ := exec_drw_forms h
    · exact ((start.setPix mem_second _).setFlag (.head _) _).setPc _
    · exact (start.setPix mem_second _).raise mem_third _

/-- Settles O22: the updates each instruction is made of write only the parts the table lists for it. -/
theorem partsWrittenOnlyByNamedInstructions : Obligations.PartsWrittenOnlyByNamedInstructions :=
  fun _ _ _ h => (exec_sameFields h).frame

/-! ### Completing and raising -/

/-- The instruction completes: no fault is latched, and `PC` goes where one of its directives puts it (R25). -/
structure Completes (i : Instr) (s t : State) : Prop where
  fault : t.fault = s.fault
  pc : t.pc ∈ pcAfter s i

/-- The instruction raises `f`, the cause R229 lists for it: `PC` stays; a cause other than `AddressOutOfRange` comes
before every effect, and a draw has written no register (R231). -/
structure Raises (i : Instr) (s t : State) (f : Fault) : Prop where
  latch : t.fault = some f
  cause : executeCause i = some f.code
  pc : t.pc = s.pc
  precise : executeCause i ≠ some 1 → t = s.raise f
  drawRegs : ∀ x y n, i = .drw x y n → ∀ r, t.reg r = s.reg r

theorem completes_skip {i : Instr} {s : State} (c : Bool) (hi : pcAfter s i = [s.pc + 2, s.pc + 4]) :
    Completes i s (s.applyDirective (skipIf c)) := by
  cases c with
  | false => exact ⟨rfl, by rw [hi]; exact .head _⟩
  | true => exact ⟨rfl, by rw [hi]; exact .tail _ (.head _)⟩

/-- A raise with nothing written before it. -/
theorem raises_of_raise {i : Instr} {f : Fault} (s : State) (hi : executeCause i = some f.code) :
    Raises i s (s.raise f) f :=
  ⟨rfl, hi, rfl, fun _ => rfl, fun _ _ _ _ _ => rfl⟩

/-- A raise of `AddressOutOfRange` after writing memory or registers, by an instruction that is no draw. -/
theorem raises_addressOutOfRange {i : Instr} {s u : State} {a : Word} (hi : executeCause i = some 1) (hpc : u.pc = s.pc)
    (noDraw : ∀ x y n, i ≠ .drw x y n) : Raises i s (u.raise (.addressOutOfRange a)) (.addressOutOfRange a) :=
  ⟨rfl, hi, hpc, fun h => absurd hi h, fun x y n h => absurd h (noDraw x y n)⟩

theorem topOfStack_of_used {s : State} (used : 0 < s.sp.val) : s.stack[s.sp.val - 1]'(by omega) ∈ topOfStack s := by
  have len : (s.stack.toList.take s.sp.val).length = s.sp.val := by
    simp only [List.length_take, Vector.length_toList]
    omega
  rw [topOfStack, List.getLast?_eq_getElem?, len, List.getElem?_take_of_lt (by omega)]
  simp

/-- Every instruction either completes or raises its one cause (R25, R229, R231). -/
theorem exec_completes_or_raises {i : Instr} {s t : State} (h : exec i s = .next t) :
    Completes i s t ∨ ∃ f, Raises i s t f := by
  cases i with
  | seImm | sneImm | seReg | sneReg => cases h; exact .inl (completes_skip _ rfl)
  | call nnn =>
    obtain ⟨room, rfl⟩ | rfl := exec_call_forms h
    · exact .inl ⟨rfl, .head _⟩
    · exact .inr ⟨_, raises_of_raise s rfl⟩
  | ret =>
    obtain ⟨used, rfl⟩ | rfl := exec_ret_forms h
    · exact .inl ⟨rfl, topOfStack_of_used used⟩
    · exact .inr ⟨_, raises_of_raise s rfl⟩
  | skp x =>
    obtain ⟨c, rfl⟩ | rfl := exec_skp_forms h
    · exact .inl (completes_skip c rfl)
    · exact .inr ⟨_, raises_of_raise s rfl⟩
  | sknp x =>
    obtain ⟨c, rfl⟩ | rfl := exec_sknp_forms h
    · exact .inl (completes_skip c rfl)
    · exact .inr ⟨_, raises_of_raise s rfl⟩
  | ldVxK x =>
    obtain rfl | ⟨b, rfl⟩ := exec_ldVxK_forms h
    · exact .inl ⟨rfl, .head _⟩
    · exact .inl ⟨rfl, .tail _ (.head _)⟩
  | ldB x =>
    obtain ⟨m, rfl | ⟨a, rfl⟩⟩ := exec_ldB_forms h
    · exact .inl ⟨rfl, .head _⟩
    · exact .inr ⟨_, raises_addressOutOfRange rfl rfl (by simp)⟩
  | storeRegs x =>
    obtain ⟨m, rfl | ⟨a, rfl⟩⟩ := exec_storeRegs_forms h
    · exact .inl ⟨rfl, .head _⟩
    · exact .inr ⟨_, raises_addressOutOfRange rfl rfl (by simp)⟩
  | loadRegs x =>
    obtain ⟨v, -, rfl | ⟨a, rfl⟩⟩ := exec_loadRegs_forms h
    · exact .inl ⟨rfl, .head _⟩
    · exact .inr ⟨_, raises_addressOutOfRange rfl rfl (by simp)⟩
  | drw x y n =>
    obtain ⟨g, ⟨c, rfl⟩ | ⟨rows, a, rfl⟩⟩ := exec_drw_forms h
    · exact .inl ⟨rfl, .head _⟩
    · have cause : executeCause (.drw x y n) = some 1 := if_neg rows
      exact .inr ⟨_, rfl, cause, rfl, fun hne => absurd cause hne, fun _ _ _ _ _ => rfl⟩
  | _ => cases h; exact .inl ⟨rfl, .head _⟩

/-- From a state with no fault, a latched fault means that the instruction raised it. -/
theorem raises_of_fault {i : Instr} {s t : State} {f : Fault} (running : s.fault = none) (h : exec i s = .next t)
    (hf : t.fault = some f) : Raises i s t f := by
  obtain done | ⟨g, raised⟩ := exec_completes_or_raises h
  · cases (done.fault.trans running).symm.trans hf
  · cases raised.latch.symm.trans hf
    exact raised

theorem completes_of_no_fault {i : Instr} {s t : State} (h : exec i s = .next t) (hf : t.fault = none) :
    Completes i s t := by
  obtain done | ⟨f, raised⟩ := exec_completes_or_raises h
  · exact done
  · cases raised.latch.symm.trans hf

/-- Settles O26: completing applies a directive of the instruction, raising applies none. -/
theorem pcMovesByDirective : Obligations.PcMovesByDirective := by
  intro i s t running h
  refine ⟨fun hf => (completes_of_no_fault h hf).pc, fun hf => ?_⟩
  obtain ⟨f, hf⟩ := Option.ne_none_iff_exists'.1 hf
  exact (raises_of_fault running h hf).pc

/-- Settles O27: each raise of an instruction has the code listed for it. -/
theorem instructionsRaiseOnlyListedCauses : Obligations.InstructionsRaiseOnlyListedCauses :=
  fun _ _ _ _ running h hf => (raises_of_fault running h hf).cause

/-- Settles O28: the stack and key checks come before every effect, and the loops over memory write neither `PC` nor,
in a draw, a register. -/
theorem raisingLeavesOnlyPartialEffects : Obligations.RaisingLeavesOnlyPartialEffects := by
  intro i s t f running h hf
  have raised := raises_of_fault running h hf
  exact ⟨raised.precise, fun _ => ⟨raised.pc, raised.drawRegs⟩⟩

end Sys2Proof.Machine

/-! Which registers and inputs an instruction reads and writes (R21, R22, R32, R197, R243; O24, O25, O29). -/

namespace Sys2Proof.Machine

/-! ### Registers written -/

theorem setReg_reg_of_other {s : State} {x r : Reg} (h : (r == x) = false) (b : Byte) :
    (s.setReg x b).reg r = s.reg r := by
  rw [State.setReg_reg, if_neg (ne_of_beq_false h)]

theorem setResult_reg_of_other {s : State} {x r : Reg} (h : (r == x || r == vf) = false) (b : Byte) (f : Bool) :
    (s.setResult x b f).reg r = s.reg r := by
  obtain ⟨hx, hvf⟩ := Bool.or_eq_false_iff.1 h
  rw [State.setResult, State.setFlag, setReg_reg_of_other hvf, setReg_reg_of_other hx]

/-- An instruction writes no register but those R21 lists for it. -/
theorem exec_reg_of_not_written {i : Instr} {s t : State} {r : Reg} (h : exec i s = .next t)
    (hw : writesReg i r = false) : t.reg r = s.reg r := by
  cases i with
  | ldImm | addImm | ldReg | orReg | andReg | xorReg | rnd | ldVxDt => cases h; exact setReg_reg_of_other hw _
  | addReg | subReg | subnReg | shr | shl => cases h; exact setResult_reg_of_other hw _ _
  | ldVxK x =>
    obtain rfl | ⟨b, rfl⟩ := exec_ldVxK_forms h
    · rfl
    · exact setReg_reg_of_other hw _
  | loadRegs x =>
    have above : x < r := by simpa [writesReg] using hw
    obtain ⟨v, hv, rfl | ⟨a, rfl⟩⟩ := exec_loadRegs_forms h
    · exact hv r above
    · exact hv r above
  | drw x y n =>
    obtain ⟨g, ⟨c, rfl⟩ | ⟨-, a, rfl⟩⟩ := exec_drw_forms h
    · exact setReg_reg_of_other hw _
    · rfl
  | _ => exact (exec_sameFields h .regs (by simp [writtenParts])).keeps r

/-! ### The flag register -/

theorem flagByte_zero_or_one (f : Bool) : flagByte f = 0 ∨ flagByte f = 1 := by
  cases f with
  | false => exact .inl rfl
  | true => exact .inr rfl

theorem setFlag_vf_zero_or_one (s : State) (f : Bool) : (s.setFlag f).reg vf = 0 ∨ (s.setFlag f).reg vf = 1 := by
  rw [State.setFlag_reg, if_pos rfl]
  exact flagByte_zero_or_one f

/-- A flag writer that completes writes `VF` last (R22, R100). -/
theorem exec_flag_zero_or_one {i : Instr} {s t : State} (h : exec i s = .next t) (hi : writesFlag i = true)
    (running : t.fault = none) : t.reg vf = 0 ∨ t.reg vf = 1 := by
  cases i with
  | addReg | subReg | subnReg | shr | shl => cases h; exact setFlag_vf_zero_or_one _ _
  | drw x y n =>
    obtain ⟨g, ⟨c, rfl⟩ | ⟨-, a, rfl⟩⟩ := exec_drw_forms h
    · exact setFlag_vf_zero_or_one _ c
    · cases running
  | _ => cases hi

/-- Settles O25: an instruction that does not list `VF` as written leaves it, and the flag writers end by writing 0 or
1. -/
theorem flagRegisterWrittenOnlyByFlagWriters : Obligations.FlagRegisterWrittenOnlyByFlagWriters :=
  ⟨fun _ _ _ h _ hw => exec_reg_of_not_written h hw, fun _ _ _ h hi running => exec_flag_zero_or_one h hi running⟩

/-! ### States that differ in registers and inputs only -/

/-- The state with other registers, another key sample and another sound timer. -/
def State.vary (s : State) (v : Vector Byte 16) (k : Word) (c : Byte) : State := ((s.withRegs v).setKeys k).setSt c

/-- The second state differs from the first at most in the registers outside `P`, in the keys, which are `k`, and in the
sound timer, which is `c`. -/
def SameBut (P : Reg → Prop) (k : Word) (c : Byte) (t t' : State) : Prop :=
  ∃ v, t' = t.vary v k c ∧ ∀ q, P q → v.get q = t.reg q

namespace SameBut

variable {P : Reg → Prop} {k : Word} {c : Byte} {t t' : State}

theorem reg_eq (h : SameBut P k c t t') {q : Reg} (hq : P q) : t'.reg q = t.reg q := by
  obtain ⟨v, rfl, hv⟩ := h
  exact hv q hq

theorem effAddr_eq (h : SameBut P k c t t') (n : Nat) : effAddr t' n = effAddr t n := by
  obtain ⟨v, rfl, -⟩ := h
  rfl

theorem byteAt_eq (h : SameBut P k c t t') (a : Nat) : t'.byteAt a = t.byteAt a := by
  obtain ⟨v, rfl, -⟩ := h
  rfl

/-- An update that touches neither registers nor these inputs keeps the relation. -/
theorem map (h : SameBut P k c t t') {g : State → State} (hg : ∀ v, g (t.vary v k c) = (g t).vary v k c)
    (hv : (g t).v = t.v) : SameBut P k c (g t) (g t') := by
  obtain ⟨v, rfl, hq⟩ := h
  exact ⟨v, hg v, fun q hne => (hq q hne).trans (congrArg (·.get q) hv.symm)⟩

theorem setReg (h : SameBut P k c t t') (x : Reg) (b : Byte) : SameBut P k c (t.setReg x b) (t'.setReg x b) := by
  obtain ⟨v, rfl, hq⟩ := h
  refine ⟨((t.withRegs v).setReg x b).v, rfl, fun q hne => ?_⟩
  exact (State.setReg_reg _ x b q).trans (by rw [State.withRegs_reg, hq q hne, State.setReg_reg])

theorem applyDirective (h : SameBut P k c t t') (d : Directive) :
    SameBut P k c (t.applyDirective d) (t'.applyDirective d) :=
  h.map (g := (·.applyDirective d)) (by cases d <;> exact fun _ => rfl) (by cases d <;> rfl)

theorem raise (h : SameBut P k c t t') (f : Fault) : SameBut P k c (t.raise f) (t'.raise f) :=
  h.map (g := (·.raise f)) (fun _ => rfl) rfl

end SameBut

/-! ### Loops over two such states at once -/

/-- Two answers of a step of a loop: both go on, to related states, or both raise the same cause. -/
inductive BothAnswer {σ : Type} (R : σ → σ → Prop) : Except Fault σ → Except Fault σ → Prop where
  | ok {s s' : σ} (h : R s s') : BothAnswer R (.ok s) (.ok s')
  | error (e : Fault) : BothAnswer R (.error e) (.error e)

/-- A loop whose steps keep a relation ends in related states, with the same fault if any. -/
theorem forEach_related {σ : Type} {f : Nat → σ → Except Fault σ} {R : σ → σ → Prop} {ks : List Nat}
    (hf : ∀ k ∈ ks, ∀ s s', R s s' → BothAnswer R (f k s) (f k s')) {s s' : σ} (h : R s s') :
    R (forEach f ks s).1 (forEach f ks s').1 ∧ (forEach f ks s').2 = (forEach f ks s).2 := by
  induction ks generalizing s s' with
  | nil => exact ⟨h, rfl⟩
  | cons k ks ih =>
    rw [forEach_cons, forEach_cons]
    have first := hf k List.mem_cons_self s s' h
    generalize f k s = a at first ⊢
    generalize f k s' = a' at first ⊢
    cases first with
    | ok hu => exact ih (fun l hl => hf l (List.mem_cons_of_mem k hl)) hu
    | error e => exact ⟨h, rfl⟩

section

variable {P : Reg → Prop} {k : Word} {c : Byte}

theorem memWrite_sameBut {s s' : State} (h : SameBut P k c s s') (a : Nat) (b : Byte) :
    BothAnswer (SameBut P k c) (memWrite s a b) (memWrite s' a b) := by
  by_cases ha : a < 0x1000
  · rw [memWrite_ok ha, memWrite_ok ha]
    obtain ⟨v, rfl, hv⟩ := h
    exact .ok ⟨v, rfl, hv⟩
  · rw [memWrite_error (Nat.not_lt.1 ha), memWrite_error (Nat.not_lt.1 ha)]
    exact .error _

theorem storeDigit_sameBut {s s' : State} (h : SameBut P k c s s') (b : Byte) (n : Nat) :
    BothAnswer (SameBut P k c) (storeDigit b n s) (storeDigit b n s') := by
  rw [storeDigit, storeDigit, h.effAddr_eq]
  exact memWrite_sameBut h _ _

theorem storeReg_sameBut {s s' : State} (h : SameBut P k c s s') {n : Nat} (hn : P (loopReg n)) :
    BothAnswer (SameBut P k c) (storeReg n s) (storeReg n s') := by
  rw [storeReg, storeReg, h.effAddr_eq, h.reg_eq hn]
  exact memWrite_sameBut h _ _

theorem loadReg_sameBut {s s' : State} (h : SameBut P k c s s') (n : Nat) :
    BothAnswer (SameBut P k c) (loadReg n s) (loadReg n s') := by
  rw [loadReg, loadReg, h.effAddr_eq]
  by_cases ha : effAddr s n < 0x1000
  · rw [memRead_ok ha, memRead_ok ha, h.byteAt_eq]
    exact .ok (h.setReg _ _)
  · rw [memRead_error (Nat.not_lt.1 ha), memRead_error (Nat.not_lt.1 ha)]
    exact .error _

theorem drawSpriteRow_sameBut {p p' : State × Bool} (h : SameBut P k c p.1 p'.1 ∧ p'.2 = p.2) (x y n : Nat) :
    BothAnswer (fun p p' => SameBut P k c p.1 p'.1 ∧ p'.2 = p.2) (drawSpriteRow x y n p) (drawSpriteRow x y n p') := by
  obtain ⟨hs, hc⟩ := h
  have same := hs.effAddr_eq n
  by_cases ha : effAddr p.1 n < 0x1000
  · rw [drawSpriteRow_ok ha, drawSpriteRow_ok (by rwa [same])]
    obtain ⟨s, collided⟩ := p
    obtain ⟨s', collided'⟩ := p'
    obtain ⟨v, rfl, hv⟩ := hs
    cases hc
    exact .ok ⟨⟨v, rfl, hv⟩, rfl⟩
  · rw [drawSpriteRow_error (Nat.not_lt.1 ha), drawSpriteRow_error (by rw [same]; exact Nat.not_lt.1 ha), same]
    exact .error _

theorem endState_sameBut {p p' : State × Option Fault} (h : SameBut P k c p.1 p'.1 ∧ p'.2 = p.2) :
    SameBut P k c (endState p) (endState p') := by
  obtain ⟨s, f⟩ := p
  obtain ⟨s', f'⟩ := p'
  obtain ⟨hs, hf⟩ := h
  obtain rfl : f' = f := hf
  cases f' with
  | none => exact hs.applyDirective .next
  | some f => exact hs.raise f

end

/-! ### What an instruction leaves depends on what it reads -/

/-- The three instructions that read the key sample (R197). -/
def readsKeys : Instr → Bool
  | .skp _ | .sknp _ | .ldVxK _ => true
  | _ => false

/-- The sound timer after an instruction that leaves `t`, where it was `c`: only `FX18` writes it (R195). -/
def soundAfter (t : State) (c : Byte) : Instr → Byte
  | .ldStVx _ => t.st
  | _ => c

/-- Two states that agree on the registers an instruction reads, and on the keys if it reads them, are led to states
that agree where they did, and in everything an instruction computes. -/
theorem exec_sameBut {i : Instr} {P : Reg → Prop} {k : Word} {c : Byte} {s s' t t' : State} (h : SameBut P k c s s')
    (regs : ∀ q, readsReg i q = true → P q) (keys : readsKeys i = true → k = s.keys)
    (ht : exec i s = .next t) (ht' : exec i s' = .next t') : SameBut P k (soundAfter t c i) t t' := by
  cases i with
  | cls | jp | ldI =>
    obtain ⟨v, rfl, hv⟩ := h
    cases ht
    cases ht'
    exact ⟨v, rfl, hv⟩
  | seImm x nn | sneImm x nn =>
    cases ht
    cases ht'
    rw [h.reg_eq (regs x (by simp [readsReg]))]
    exact h.applyDirective _
  | seReg x y | sneReg x y =>
    cases ht
    cases ht'
    rw [h.reg_eq (regs x (by simp [readsReg])), h.reg_eq (regs y (by simp [readsReg]))]
    exact h.applyDirective _
  | ldImm | ldVxDt =>
    obtain ⟨v, rfl, hv⟩ := h
    cases ht
    cases ht'
    exact (SameBut.setReg ⟨v, rfl, hv⟩ _ _).applyDirective .next
  | rnd =>
    obtain ⟨v, rfl, hv⟩ := h
    cases ht
    cases ht'
    exact (SameBut.setReg (t := s.setRng (getByte s.rng).2) ⟨v, rfl, hv⟩ _ _).applyDirective .next
  | addImm x _ | ldReg _ x =>
    cases ht
    cases ht'
    rw [h.reg_eq (regs x (by simp [readsReg]))]
    exact (h.setReg _ _).applyDirective .next
  | orReg x y | andReg x y | xorReg x y =>
    cases ht
    cases ht'
    rw [h.reg_eq (regs x (by simp [readsReg])), h.reg_eq (regs y (by simp [readsReg]))]
    exact (h.setReg _ _).applyDirective .next
  | addReg x y | subReg x y | subnReg x y =>
    cases ht
    cases ht'
    rw [h.reg_eq (regs x (by simp [readsReg])), h.reg_eq (regs y (by simp [readsReg]))]
    exact ((h.setReg _ _).setReg _ _).applyDirective .next
  | shr x y | shl x y =>
    cases ht
    cases ht'
    simp only [shiftOperand, Quirks.decided, h.reg_eq (regs x (by simp [readsReg]))]
    exact ((h.setReg _ _).setReg _ _).applyDirective .next
  | jpV0 nnn =>
    have read := h.reg_eq (regs 0 (by simp [readsReg]))
    cases ht
    cases ht'
    simp only [jumpOffset, Quirks.decided, read]
    exact h.applyDirective _
  | ldDtVx x | ldStVx x | addI x | ldF x =>
    have read := h.reg_eq (regs x (by simp [readsReg]))
    obtain ⟨v, rfl, hv⟩ := h
    cases ht
    cases ht'
    refine ⟨v, ?_, hv⟩
    simp only [fontDigit, fontAddr, Quirks.decided, read]
    rfl
  | call nnn =>
    obtain ⟨v, rfl, hv⟩ := h
    by_cases room : s.sp.val < 16
    · cases (exec_call nnn s room).symm.trans ht
      cases (exec_call nnn (s.vary v k c) room).symm.trans ht'
      exact ⟨v, rfl, hv⟩
    · cases (exec_call_full nnn s room).symm.trans ht
      cases (exec_call_full nnn (s.vary v k c) room).symm.trans ht'
      exact ⟨v, rfl, hv⟩
  | ret =>
    obtain ⟨v, rfl, hv⟩ := h
    by_cases used : 0 < s.sp.val
    · cases (exec_ret s used).symm.trans ht
      cases (exec_ret (s.vary v k c) used).symm.trans ht'
      exact ⟨v, rfl, hv⟩
    · cases (exec_ret_empty s used).symm.trans ht
      cases (exec_ret_empty (s.vary v k c) used).symm.trans ht'
      exact ⟨v, rfl, hv⟩
  | skp x =>
    have read := h.reg_eq (regs x (by simp [readsReg]))
    have down : s'.keyDown = s.keyDown := by obtain ⟨v, rfl, -⟩ := h; obtain rfl := keys rfl; rfl
    by_cases named : (s.reg x).toNat < 16
    · cases (exec_skp x s named).symm.trans ht
      cases (exec_skp x s' (by rwa [read])).symm.trans ht'
      rw [read, down]
      exact h.applyDirective _
    · cases (exec_skp_fault x s named).symm.trans ht
      cases (exec_skp_fault x s' (by rwa [read])).symm.trans ht'
      rw [read]
      exact h.raise _
  | sknp x =>
    have read := h.reg_eq (regs x (by simp [readsReg]))
    have down : s'.keyDown = s.keyDown := by obtain ⟨v, rfl, -⟩ := h; obtain rfl := keys rfl; rfl
    by_cases named : (s.reg x).toNat < 16
    · cases (exec_sknp x s named).symm.trans ht
      cases (exec_sknp x s' (by rwa [read])).symm.trans ht'
      rw [read, down]
      exact h.applyDirective _
    · cases (exec_sknp_fault x s named).symm.trans ht
      cases (exec_sknp_fault x s' (by rwa [read])).symm.trans ht'
      rw [read]
      exact h.raise _
  | ldVxK x =>
    have same : heldKey .levelLowest s' = heldKey .levelLowest s := by
      obtain ⟨v, rfl, -⟩ := h; obtain rfl := keys rfl; rfl
    cases held : heldKey .levelLowest s with
    | none =>
      cases (exec_ldVxK_wait x s held).symm.trans ht
      cases (exec_ldVxK_wait x s' (same.trans held)).symm.trans ht'
      exact h
    | some n =>
      cases (exec_ldVxK x s n held).symm.trans ht
      cases (exec_ldVxK x s' n (same.trans held)).symm.trans ht'
      exact (h.setReg _ _).applyDirective .next
  | ldB x =>
    cases (exec_ldB x s).symm.trans ht
    cases (exec_ldB x s').symm.trans ht'
    rw [h.reg_eq (regs x (by simp [readsReg]))]
    exact endState_sameBut (forEach_related (fun n _ _ _ hs => storeDigit_sameBut hs _ n) h)
  | storeRegs x =>
    have read {n : Nat} (hn : n ∈ List.range (x.val + 1)) : P (loopReg n) := by
      have hn := List.mem_range.1 hn
      refine regs _ (decide_eq_true (Fin.le_def.2 ?_))
      rw [loopReg, Fin.val_ofNat]
      omega
    cases (exec_storeRegs x s).symm.trans ht
    cases (exec_storeRegs x s').symm.trans ht'
    exact endState_sameBut (forEach_related (fun n hn _ _ hs => storeReg_sameBut (n := n) hs (read hn)) h)
  | loadRegs x =>
    cases (exec_loadRegs x s).symm.trans ht
    cases (exec_loadRegs x s').symm.trans ht'
    exact endState_sameBut (forEach_related (fun n _ _ _ hs => loadReg_sameBut hs n) h)
  | drw x y n =>
    have rows :
        (SameBut P k c (sprite x y n s).1.1 (sprite x y n s').1.1 ∧ (sprite x y n s').1.2 = (sprite x y n s).1.2) ∧
        (sprite x y n s').2 = (sprite x y n s).2 := by
      rw [sprite, sprite, h.reg_eq (regs x (by simp [readsReg])), h.reg_eq (regs y (by simp [readsReg]))]
      exact forEach_related (fun n _ _ _ hp => drawSpriteRow_sameBut hp _ _ n) ⟨h, rfl⟩
    obtain ⟨⟨hs, hc⟩, hf⟩ := rows
    rw [exec_drw] at ht ht'
    rw [hf, hc] at ht'
    cases fault : (sprite x y n s).2 with
    | none =>
      rw [fault] at ht ht'
      cases ht
      cases ht'
      exact (hs.setReg _ _).applyDirective .next
    | some f =>
      rw [fault] at ht ht'
      cases ht
      cases ht'
      exact hs.raise f

theorem inputs_not_mem_writtenParts (i : Instr) : Part.inputs ∉ writtenParts i := by
  cases i <;> simp [writtenParts]

theorem exec_keys {i : Instr} {s t : State} (h : exec i s = .next t) : t.keys = s.keys := by
  obtain ⟨keys, -⟩ := exec_sameFields h .inputs (inputs_not_mem_writtenParts i)
  exact keys

theorem soundAfter_of_written {i : Instr} (h : Part.sound ∈ writtenParts i) (t : State) (c : Byte) :
    soundAfter t c i = t.st := by
  cases i with
  | ldStVx x => rfl
  | _ => simp [writtenParts] at h

theorem soundAfter_of_not_written {i : Instr} (h : Part.sound ∉ writtenParts i) (t : State) (c : Byte) :
    soundAfter t c i = c := by
  cases i with
  | ldStVx x => exact absurd (.head _) h
  | _ => rfl

/-- An instruction started with the sound timer as it is leaves it as in the run compared with. -/
theorem soundAfter_same {i : Instr} {s t : State} (h : exec i s = .next t) : soundAfter t s.st i = t.st := by
  by_cases hi : Part.sound ∈ writtenParts i
  · exact soundAfter_of_written hi t s.st
  · have same : t.st = s.st := exec_sameFields h .sound hi
    rw [soundAfter_of_not_written hi, same]

/-- Settles O24: no instruction writes a register outside its list, and two states that differ only in a register it
does not read are led to states that differ only there. -/
theorem registersReadAndWrittenAsListed : Obligations.RegistersReadAndWrittenAsListed := by
  refine ⟨fun _ _ _ _ h hw => exec_reg_of_not_written h hw, fun i s t t' r b hi ht ht' => ?_⟩
  have start : SameBut (· ≠ r) s.keys s.st s (s.setReg r b) :=
    ⟨(s.setReg r b).v, rfl, fun q hq => (State.setReg_reg s r b q).trans (if_neg hq)⟩
  have read (q : Reg) (hq : readsReg i q = true) : q ≠ r := by
    rintro rfl
    exact Bool.false_ne_true (hi.symm.trans hq)
  have ends := exec_sameBut start read (fun _ => rfl) ht ht'
  rw [soundAfter_same ht, ← exec_keys ht] at ends
  obtain ⟨v, rfl, hv⟩ := ends
  exact ⟨rfl, fun q hq => hv q (by simpa using hq), ((SameFields.refl [.regs] t).withRegs (.head _) v).frame⟩

/-! ### Keys and sound timer -/

/-- With the same registers, only the inputs differ at the end too. -/
theorem exec_vary_inputs {i : Instr} {s t : State} {k : Word} (c : Byte) (keys : readsKeys i = true → k = s.keys)
    (h : exec i s = .next t) : exec i (s.vary s.v k c) = .next ((t.setKeys k).setSt (soundAfter t c i)) := by
  obtain ⟨t', ht'⟩ := exec_next i (s.vary s.v k c)
  have start : SameBut (fun _ => True) k c s (s.vary s.v k c) := ⟨s.v, rfl, fun _ _ => rfl⟩
  obtain ⟨v, rfl, hv⟩ := exec_sameBut start (fun _ _ => trivial) keys h ht'
  obtain rfl : v = t.v := Vector.ext fun n hn => hv ⟨n, hn⟩ trivial
  exact ht'

/-- Settles O29: an instruction does the same whatever the inputs are that it does not read; `FX18` overwrites the
timer. -/
theorem keysAndSoundTimerAreNotReadElsewhere : Obligations.KeysAndSoundTimerAreNotReadElsewhere := by
  refine ⟨fun i s t k noSkp noSknp noWait h => ?_, fun i s t b h => ?_⟩
  · have unread : readsKeys i = true → k = s.keys := by
      cases i with
      | skp x => exact absurd rfl (noSkp x)
      | sknp x => exact absurd rfl (noSknp x)
      | ldVxK x => exact absurd rfl (noWait x)
      | _ => exact fun h => absurd h Bool.false_ne_true
    have ends := exec_vary_inputs s.st unread h
    rw [soundAfter_same h] at ends
    exact ends
  · have ends := exec_vary_inputs (k := s.keys) b (fun _ => rfl) h
    refine ends.trans (congrArg _ ?_)
    rw [← exec_keys h]
    by_cases hi : Part.sound ∈ writtenParts i
    · rw [if_pos hi, soundAfter_of_written hi]
      rfl
    · rw [if_neg hi, soundAfter_of_not_written hi]
      rfl

end Sys2Proof.Machine

/-! What one step can do, and what every step keeps: a next state, the canonical memory, the bounds of `PC`, the font
base register (R24, R35, R50, R230, R272; O13, O18, O20, O23). -/

namespace Sys2Proof.Machine

/-! ### The forms of a step -/

/-- The state with the oldest pending event taken away. -/
def State.popEvent (s : State) : State := s.setSchedule s.schedule.tail

/-- What one step can come to (R33, R232, R260, R270). -/
inductive StepForm (s : State) : State → Prop where
  /-- A CpuCycle of a faulted core. -/
  | frozen : StepForm s s.popEvent
  /-- A CpuCycle whose fetch or decoding raises. -/
  | raised (k : Word) (f : Fault) : StepForm s ((s.popEvent.setKeys k).raise f)
  /-- A CpuCycle that executes the fetched instruction. -/
  | executed (k : Word) {op : Word} {i : Instr} {t : State} (hf : fetch s = .ok op) (hd : decode op = .ok i)
      (h : exec i (s.popEvent.setKeys k) = .next t) : StepForm s t
  /-- A TimerTick. -/
  | ticked : StepForm s (timerTick s.popEvent)
  /-- A Reset. -/
  | reset {a : ResetArgs} {es : List Event} (hs : s.schedule = .reset a :: es) : StepForm s (resetEvent a s.popEvent)

theorem cpuCycle_form {s t : State} {k : Word} (h : cpuCycle k s.popEvent = .next t) : StepForm s t := by
  cases hf : s.fault with
  | some f =>
    cases (cpuCycle_frozen (s := s.popEvent) hf k).symm.trans h
    exact .frozen
  | none =>
    rw [cpuCycle_runs (s := s.popEvent) hf] at h
    obtain ⟨f, -, hr⟩ | ⟨op, e, -, -, hr⟩ | ⟨op, i, hop, hi, hr⟩ := runInstruction_cases (s.popEvent.setKeys k)
    · cases hr.symm.trans h
      exact .raised k f
    · cases hr.symm.trans h
      exact .raised k _
    · exact .executed k hop hi (hr.symm.trans h)

theorem step_form {s t : State} (h : step s = .next t) : StepForm s t := by
  cases hs : s.schedule with
  | nil =>
    have idle : s.popEvent = s := by rw [State.popEvent, hs, List.tail_nil, ← hs]; rfl
    rw [step_idle hs] at h
    exact cpuCycle_form (idle.symm ▸ h)
  | cons e es =>
    have popped : s.popEvent = s.setSchedule es := by rw [State.popEvent, hs, List.tail_cons]
    cases e with
    | cpuCycle k =>
      rw [step_cpuCycle hs, ← popped] at h
      exact cpuCycle_form h
    | timerTick =>
      rw [step_timerTick hs, ← popped] at h
      cases h
      exact .ticked
    | reset a =>
      rw [step_reset hs, ← popped] at h
      cases h
      exact .reset hs

/-! ### Every step answers -/

theorem cpuCycle_next (k : Word) (s : State) : ∃ t, cpuCycle k s = .next t := by
  cases hf : s.fault with
  | some f => exact ⟨_, cpuCycle_frozen hf k⟩
  | none =>
    rw [cpuCycle_runs hf]
    obtain ⟨f, -, hr⟩ | ⟨op, e, -, -, hr⟩ | ⟨op, i, -, -, hr⟩ := runInstruction_cases (s.setKeys k)
    · exact ⟨_, hr⟩
    · exact ⟨_, hr⟩
    · rw [hr]
      exact exec_next i _

/-- Settles O13: a CpuCycle answers because fetch, decoder and `exec` do; the other events answer by definition. -/
theorem stepAnswersNextState : Obligations.StepAnswersNextState := by
  intro s
  cases hs : s.schedule with
  | nil => rw [step_idle hs]; exact cpuCycle_next _ _
  | cons e es =>
    cases e with
    | cpuCycle k => rw [step_cpuCycle hs]; exact cpuCycle_next _ _
    | timerTick => exact ⟨_, step_timerTick hs⟩
    | reset a => exact ⟨_, step_reset hs⟩

/-! ### What a TimerTick leaves -/

theorem timerTick_forms (s : State) : timerTick s = s ∨ ∃ d t, timerTick s = (s.setDt d).setSt t := by
  cases hf : s.fault with
  | none => exact .inr ⟨_, _, timerTick_running hf⟩
  | some f => exact .inl (timerTick_faulted (by simp [hf]))

theorem timerTick_sameFields (s : State) : SameFields [.delay, .sound] s (timerTick s) := by
  have start := SameFields.refl [.delay, .sound] s
  obtain h | ⟨d, t, h⟩ := timerTick_forms s
  · rw [h]
    exact start
  · rw [h]
    exact (start.setDt (.head _) d).setSt mem_second t

/-! ### The forms of a Reset -/

/-- Loading bytes changes nothing but the memory, and keeps its canonical form, wherever it ends. -/
theorem loadBytes_forms (bs : List Byte) (a : Nat) {s : State} (h : Memory.wf s.mem) :
    ∃ m, Memory.wf m ∧ (loadBytes bs a s).1 = s.setMem m := by
  induction bs generalizing a s with
  | nil => exact ⟨s.mem, h, rfl⟩
  | cons b bs ih =>
    by_cases ha : a < 0x1000
    · simp only [loadBytes, memWrite_ok ha]
      exact ih (a + 1) (s := s.setMem _) (Memory.wf_write h ha b)
    · simp only [loadBytes, memWrite_error (Nat.not_lt.1 ha)]
      exact ⟨s.mem, h, rfl⟩

/-- A Reset stops with a fault while it loads, or starts the core (R260, R263). -/
theorem resetEvent_forms (a : ResetArgs) (s : State) :
    ∃ m, Memory.wf m ∧
      ((∃ f, resetEvent a s = ((zeroed s).setMem m).raise f) ∨ resetEvent a s = startCore a ((zeroed s).setMem m)) := by
  obtain ⟨m, hm, font⟩ := loadBytes_forms Config.font a.fontBase.toNat (s := zeroed s) Memory.wf_nil
  obtain ⟨m', hm', rom⟩ := loadBytes_forms a.rom a.pcReset.toNat (s := (zeroed s).setMem m) hm
  cases hf : a.fontFits with
  | false => exact ⟨m, hm, .inl ⟨_, by rw [resetEvent_fontMisfit hf, font]⟩⟩
  | true =>
    cases hr : a.romFits with
    | false => exact ⟨m', hm', .inl ⟨_, by rw [resetEvent_romMisfit hf hr, font, rom]; rfl⟩⟩
    | true => exact ⟨m', hm', .inr (by rw [resetEvent_fits hf hr, font, rom]; rfl)⟩

/-- The end of a Reset with a nonzero seed (R203, R260). -/
theorem startCore_seeded {a : ResetArgs} (h : a.seed ≠ 0) (s : State) :
    startCore a s = ((s.setPc a.pcReset).setFontBase a.fontBase).setRng (nextRng^[16] a.seed) := by
  simp only [startCore, seedRng, h, if_false, advanceRng_eq_iterate]

/-- The end of a Reset writes `PC`, the font base register, and the generator or the latch. -/
theorem startCore_forms (a : ResetArgs) (s : State) :
    (∃ r, startCore a s = ((s.setPc a.pcReset).setFontBase a.fontBase).setRng r) ∨
      startCore a s = ((s.setPc a.pcReset).setFontBase a.fontBase).raise .zeroSeed := by
  by_cases h : a.seed = 0
  · exact .inr (by simp only [startCore, seedRng, h, if_true])
  · exact .inl ⟨_, startCore_seeded h s⟩

/-! ### The memory stays canonical -/

theorem memWrite_canonical {s t : State} {a : Nat} {b : Byte} (hs : MemoryCanonical s) (h : memWrite s a b = .ok t) :
    MemoryCanonical t := by
  obtain ⟨ha, rfl⟩ := memWrite_cases h
  exact Memory.wf_write hs ha b

theorem endState_mem (r : State × Option Fault) : (endState r).mem = r.1.mem := by
  obtain ⟨s, _ | f⟩ := r <;> rfl

theorem exec_canonical {i : Instr} {s t : State} (hs : MemoryCanonical s) (h : exec i s = .next t) :
    MemoryCanonical t := by
  by_cases hi : Part.memory ∈ writtenParts i
  · cases i with
    | ldB x =>
      cases (exec_ldB x s).symm.trans h
      have kept := forEach_keeps (f := storeDigit (s.reg x)) (fun _ _ _ => memWrite_canonical) (List.range 3) hs
      rwa [MemoryCanonical, endState_mem]
    | storeRegs x =>
      cases (exec_storeRegs x s).symm.trans h
      have kept := forEach_keeps (f := storeReg) (fun _ _ _ => memWrite_canonical) (List.range (x.val + 1)) hs
      rwa [MemoryCanonical, endState_mem]
    | _ => simp [writtenParts] at hi
  · have same : t.mem = s.mem := exec_sameFields h .memory hi
    rwa [MemoryCanonical, same]

theorem resetEvent_canonical (a : ResetArgs) (s : State) : MemoryCanonical (resetEvent a s) := by
  obtain ⟨m, hm, ⟨f, hr⟩ | hr⟩ := resetEvent_forms a s
  · rw [hr]
    exact hm
  · obtain ⟨r, hc⟩ | hc := startCore_forms a ((zeroed s).setMem m)
    · rw [hr, hc]
      exact hm
    · rw [hr, hc]
      exact hm

/-- Settles O18: the memory is written byte by byte, inside the address space, by the two storing instructions and by a
Reset that starts from the empty list; every other step leaves it. -/
theorem stepKeepsMemoryCanonical : Obligations.StepKeepsMemoryCanonical := by
  intro s t hs h
  cases step_form h with
  | frozen => exact hs
  | raised k f => exact hs
  | executed k hf hd h => exact exec_canonical (s := s.popEvent.setKeys k) hs h
  | ticked =>
    have same : (timerTick s.popEvent).mem = s.mem := timerTick_sameFields s.popEvent .memory (by decide)
    rwa [MemoryCanonical, same]
  | reset => exact resetEvent_canonical _ _

/-! ### The font base register -/

theorem fontBase_not_mem_writtenParts (i : Instr) : Part.fontBase ∉ writtenParts i := by
  cases i <;> simp [writtenParts]

/-- Settles O23: no instruction lists the font base register as written, and a TimerTick writes the timers only. -/
theorem fontBaseWrittenByResetOnly : Obligations.FontBaseWrittenByResetOnly := by
  intro s t noReset h
  cases step_form h with
  | frozen => rfl
  | raised k f => rfl
  | executed k hf hd h => exact exec_sameFields h .fontBase (fontBase_not_mem_writtenParts _)
  | ticked => exact timerTick_sameFields s.popEvent .fontBase (by decide)
  | reset hs => exact absurd hs (noReset _ _)

/-! ### The bound of `PC` -/

/-- The return addresses in use are at most 0x1000 (R24). -/
def ReturnsBounded (s : State) : Prop := ∀ k : Fin 16, k.val < s.sp.val → (s.stack.get k).toNat ≤ 0x1000

theorem topOfStack_bounded {s : State} (hs : ReturnsBounded s) {a : Word} (ha : a ∈ topOfStack s) :
    a.toNat ≤ 0x1000 := by
  have used : a ∈ s.stack.toList.take s.sp.val := List.mem_of_getLast? (Option.mem_toList.1 ha)
  obtain ⟨k, hk, rfl⟩ := List.mem_take_iff_getElem.1 used
  have hk := lt_min_iff.1 hk
  exact hs ⟨k, by simpa using hk.2⟩ hk.1

theorem zextNNN_add_byte_toNat (nnn : BitVec 12) (b : Byte) :
    (zextNNN nnn + zextByte b).toNat = nnn.toNat + b.toNat := by
  have hn := nnn.isLt
  have hb := b.isLt
  have zext : (zextByte b).toNat = b.toNat := BitVec.toNat_setWidth_of_le (by decide)
  rw [BitVec.toNat_add, zextNNN_toNat, zext, Nat.mod_eq_of_lt (by omega)]

theorem pc_add_toNat {s : State} (hpc : s.pc.toNat ≤ 0x0FFE) :
    (s.pc + 2).toNat ≤ 0x1000 ∧ (s.pc + 4).toNat ≤ 0x1002 := by
  have two : (2 : Word).toNat = 2 := rfl
  have four : (4 : Word).toNat = 4 := rfl
  rw [BitVec.toNat_add, BitVec.toNat_add, two, four]
  omega

/-- Every target of an instruction fetched inside the memory is within the bound (R24). -/
theorem pcAfter_bounded {s : State} (hs : ReturnsBounded s) (hpc : s.pc.toNat ≤ 0x0FFE) (i : Instr) {a : Word}
    (ha : a ∈ pcAfter s i) : a.toNat ≤ 0x10FE := by
  obtain ⟨next, skip⟩ := pc_add_toNat hpc
  cases i with
  | jp nnn | call nnn =>
    obtain rfl := List.mem_singleton.1 ha
    have := nnn.isLt
    rw [zextNNN_toNat]
    omega
  | jpV0 nnn =>
    obtain rfl := List.mem_singleton.1 ha
    have := nnn.isLt
    have := (s.reg 0).isLt
    rw [zextNNN_add_byte_toNat]
    omega
  | ret =>
    have := topOfStack_bounded hs ha
    omega
  | ldVxK | seImm | sneImm | seReg | sneReg | skp | sknp =>
    obtain rfl | ha := List.mem_cons.1 ha
    · omega
    · obtain rfl := List.mem_singleton.1 ha
      omega
  | _ =>
    obtain rfl := List.mem_singleton.1 ha
    omega

/-- A call pushes an address just behind itself, a return only lowers `SP`, and nothing else touches the stack. -/
theorem exec_returnsBounded {i : Instr} {s t : State} (hs : ReturnsBounded s) (hpc : s.pc.toNat ≤ 0x0FFE)
    (h : exec i s = .next t) : ReturnsBounded t := by
  by_cases hi : Part.sp ∈ writtenParts i
  · cases i with
    | call nnn =>
      obtain ⟨room, rfl⟩ | rfl := exec_call_forms h
      · intro k hk
        rw [State.setPc_stack, State.setStack_stack, stack_set_get]
        split
        · exact (pc_add_toNat hpc).1
        · next above =>
          have hk : k.val < s.sp.val + 1 := hk
          exact hs k (by omega)
      · exact hs
    | ret =>
      obtain ⟨used, rfl⟩ | rfl := exec_ret_forms h
      · intro k hk
        have hk : k.val < s.sp.val - 1 := hk
        exact hs k (by omega)
      · exact hs
    | _ => simp [writtenParts] at hi
  · have entries : Part.entries ∉ writtenParts i := by
      cases i with
      | call nnn => exact absurd mem_second hi
      | _ => simp [writtenParts]
    have sameStack : t.stack = s.stack := exec_sameFields h .entries entries
    have sameSp : t.sp = s.sp := exec_sameFields h .sp hi
    rwa [ReturnsBounded, sameStack, sameSp]

theorem exec_pcBounded {i : Instr} {s t : State} (hs : PcBounded s) (hpc : s.pc.toNat ≤ 0x0FFE)
    (h : exec i s = .next t) : PcBounded t := by
  obtain ⟨-, returns, resets⟩ := hs
  obtain ⟨-, sched⟩ := exec_sameFields h .inputs (inputs_not_mem_writtenParts i)
  refine ⟨?_, exec_returnsBounded returns hpc h, fun a ha => resets a (sched ▸ ha)⟩
  obtain done | ⟨f, raised⟩ := exec_completes_or_raises h
  · exact pcAfter_bounded returns hpc i done.pc
  · rw [raised.pc]
    omega

/-- A Reset empties the stack, and leaves `PC` or sets it to its own argument. -/
theorem resetEvent_pc_sp (a : ResetArgs) (s : State) :
    ((resetEvent a s).pc = s.pc ∨ (resetEvent a s).pc = a.pcReset) ∧ (resetEvent a s).sp = 0 ∧
      (resetEvent a s).schedule = s.schedule := by
  obtain ⟨m, -, ⟨f, hr⟩ | hr⟩ := resetEvent_forms a s
  · rw [hr]
    exact ⟨.inl rfl, rfl, rfl⟩
  · obtain ⟨r, hc⟩ | hc := startCore_forms a ((zeroed s).setMem m)
    · rw [hr, hc]
      exact ⟨.inr rfl, rfl, rfl⟩
    · rw [hr, hc]
      exact ⟨.inr rfl, rfl, rfl⟩

theorem popEvent_pcBounded {s : State} (hs : PcBounded s) : PcBounded s.popEvent := by
  obtain ⟨pc, returns, resets⟩ := hs
  exact ⟨pc, returns, fun a ha => resets a (List.mem_of_mem_tail ha)⟩

/-- Settles O20: an executed instruction was fetched inside the memory, so each of its targets is within the bound and a
call pushes at most 0x1000; a Reset sets `PC` to its argument and empties the stack. -/
theorem stepKeepsPcBounded : Obligations.StepKeepsPcBounded := by
  intro s t hs h
  have popped := popEvent_pcBounded hs
  cases step_form h with
  | frozen => exact popped
  | raised k f => exact popped
  | executed k hf hd h =>
    have inside := fetch_bound hf
    have below : s.pc.toNat ≤ 0x0FFE := by omega
    exact exec_pcBounded (s := s.popEvent.setKeys k) popped below h
  | ticked =>
    obtain ht | ⟨d, b, ht⟩ := timerTick_forms s.popEvent
    · rw [ht]
      exact popped
    · rw [ht]
      exact popped
  | @reset a es first =>
    obtain ⟨-, -, scheduled⟩ := hs
    have arg : a.pcReset.toNat ≤ 0x0FFF := scheduled a (first ▸ List.mem_cons_self)
    obtain ⟨pc, -, resets⟩ := popped
    obtain ⟨hpc, hsp, hsched⟩ := resetEvent_pc_sp a s.popEvent
    refine ⟨?_, fun k hk => absurd hk (by simp [hsp]), fun b hb => resets b (hsched ▸ hb)⟩
    obtain hpc | hpc := hpc
    · rw [hpc]
      exact pc
    · rw [hpc]
      omega

end Sys2Proof.Machine

/-! Single events and runs of them: fetches at the top of memory, the frozen core, the self-jump, and what a Reset
makes of a state (R57, R221, R233, R260, R261, R273; O7, O8, O10, O11, O14, O15, O17, O21). -/

namespace Sys2Proof.Machine

/-! ### Idle steps and the fault port -/

/-- Settles O7: both steps are the same CpuCycle of the same state. -/
theorem idleStepIsCpuCycle : Obligations.IdleStepIsCpuCycle := by
  intro s hs
  have emptied : (s.setSchedule [.cpuCycle s.keys]).setSchedule [] = s := by rw [← hs]; rfl
  rw [step_idle hs, step_cpuCycle (s := s.setSchedule [.cpuCycle s.keys]) rfl, emptied]

/-- Settles O11: the port is the code and the info of the latched cause. -/
theorem faultPortShowsCodeAndInfo : Obligations.FaultPortShowsCodeAndInfo :=
  fun _ _ _ => ⟨rfl, rfl, rfl, rfl, rfl, rfl, rfl, rfl, rfl⟩

/-! ### Fetches at the top of memory -/

theorem fetch_above {s : State} (h : 0x1000 ≤ s.pc.toNat) : fetch s = .error (.addressOutOfRange s.pc) := by
  have first := memRead_error (s := s) h
  rw [BitVec.ofNat_toNat, BitVec.setWidth_eq] at first
  exact fetch_of_first_error first

theorem fetch_top {s : State} (h : s.pc = 0x0FFF) : fetch s = .error (.addressOutOfRange 0x1000) := by
  have pc : s.pc.toNat = 0x0FFF := congrArg BitVec.toNat h
  have first : memRead s s.pc.toNat = .ok (s.byteAt s.pc.toNat) := memRead_ok (by omega)
  have second : memRead s (s.pc.toNat + 1) = .error (.addressOutOfRange 0x1000) := by
    rw [pc]
    exact memRead_error (Nat.le_refl _)
  exact fetch_of_second_error first second

/-- Settles O8: the second read fails at 0x0FFF, the first above it, none below; the word of two zero bytes is
illegal. -/
theorem fetchAtTopOfMemoryFaults : Obligations.FetchAtTopOfMemoryFaults := by
  intro s k es running hs
  have sampled := fetch_setSchedule_setKeys s es k
  rw [step_cpuCycle_running hs running]
  refine ⟨fun top => ?_, fun above => ?_, fun below => ?_, fun below hi lo => ?_⟩
  · exact runInstruction_of_fetch_error (sampled.trans (fetch_top top))
  · exact runInstruction_of_fetch_error (sampled.trans (fetch_above above))
  · exact ⟨_, fetch_ok (by omega)⟩
  · have zeros : fetch s = .ok 0x0000 := by
      rw [fetch_ok (by omega), hi, lo]
      rfl
    have illegal : decode 0x0000 = .error (.unknownOpcode 0x0000) := by decide
    exact runInstruction_of_decode_error (sampled.trans zeros) illegal

/-! ### The frozen core -/

/-- A faulted core only consumes an event that is no Reset (R233). -/
theorem step_faulted {s : State} (faulted : s.fault ≠ none) (noReset : ∀ a, Event.reset a ∉ s.schedule) :
    step s = .next s.popEvent := by
  rw [State.popEvent]
  cases hs : s.schedule with
  | nil =>
    obtain ⟨f, hf⟩ := Option.ne_none_iff_exists'.1 faulted
    rw [step_idle hs, cpuCycle_frozen hf, List.tail_nil, ← hs]
    rfl
  | cons e es =>
    cases e with
    | cpuCycle k => exact step_cpuCycle_faulted hs faulted
    | timerTick =>
      have latched : (s.setSchedule es).fault ≠ none := faulted
      rw [step_timerTick hs, timerTick_faulted latched]
      rfl
    | reset a => exact absurd (hs ▸ List.mem_cons_self) (noReset a)

theorem run_succ_of_step {M : Host.Core} {s t : M.State} (h : M.step s = .next t) (n : Nat) :
    M.run (n + 1) s = M.run n t := by
  simp only [Host.Core.run, h]

theorem run_faulted (n : Nat) {s : State} (faulted : s.fault ≠ none) (noReset : ∀ a, Event.reset a ∉ s.schedule) :
    Sys2Proof.core.run n s = .next (s.setSchedule (s.schedule.drop n)) := by
  induction n generalizing s with
  | zero => rfl
  | succ n ih =>
    have first : Sys2Proof.core.step s = .next s.popEvent := step_faulted faulted noReset
    have rest := ih (s := s.popEvent) faulted fun a ha => noReset a (List.mem_of_mem_tail ha)
    refine (run_succ_of_step first n).trans (rest.trans ?_)
    rw [State.popEvent, State.setSchedule_schedule, List.drop_tail]
    rfl

/-! ### A Reset that succeeds -/

/-- What a successful Reset makes of a state, the memory apart (R42, R260). -/
def started (a : ResetArgs) (s : State) (m : Memory) : State :=
  ((((zeroed s).setMem m).setPc a.pcReset).setFontBase a.fontBase).setRng (nextRng^[16] a.seed)

/-- The memory image of a successful Reset: the ROM over the font over zeros (R261). -/
theorem resetEvent_wellFormed {a : ResetArgs} (h : a.wellFormed = true) (s : State) :
    ∃ m, resetEvent a s = started a s m ∧ ∀ c, Memory.read m c =
      if a.pcReset.toNat ≤ c ∧ c < a.pcReset.toNat + a.rom.length then a.rom.getD (c - a.pcReset.toNat) 0
      else if a.fontBase.toNat ≤ c ∧ c < a.fontBase.toNat + 80 then Config.font.getD (c - a.fontBase.toNat) 0
      else 0 := by
  obtain ⟨fontFits, romFits, seed⟩ := (wellFormed_iff a).1 h
  obtain ⟨m, font, fontRead, -⟩ := loadBytes_spec Config.font a.fontBase.toNat (zeroed s)
  obtain ⟨m', rom, romRead, -⟩ := loadBytes_spec a.rom a.pcReset.toNat ((zeroed s).setMem m)
  refine ⟨m', ?_, fun c => ?_⟩
  · rw [resetEvent_fits ((fontFits_iff a).2 fontFits) ((romFits_iff a).2 romFits), font, rom, startCore_seeded seed]
    rfl
  · have romIff : (a.pcReset.toNat ≤ c ∧ c < a.pcReset.toNat + a.rom.length ∧ c < 0x1000) ↔
        a.pcReset.toNat ≤ c ∧ c < a.pcReset.toNat + a.rom.length := by omega
    have fontIff : (a.fontBase.toNat ≤ c ∧ c < a.fontBase.toNat + Config.font.length ∧ c < 0x1000) ↔
        a.fontBase.toNat ≤ c ∧ c < a.fontBase.toNat + 80 := by rw [font_length]; omega
    rw [romRead, if_congr romIff rfl rfl, State.setMem_byteAt, fontRead, if_congr fontIff rfl rfl]
    rfl

/-- Settles O10: no event but a Reset touches a faulted core, and a Reset with good arguments starts from a clear
latch. -/
theorem faultedCoreIsFrozenUntilReset : Obligations.FaultedCoreIsFrozenUntilReset := by
  refine ⟨fun n s faulted noReset => run_faulted n faulted noReset, fun s a es _ hs good => ?_⟩
  obtain ⟨m, reset, -⟩ := resetEvent_wellFormed good (s.setSchedule es)
  exact ⟨_, step_reset hs, by rw [reset]; rfl, by rw [reset]; rfl⟩

theorem replicate_get {α : Type} {n : Nat} (a : α) (k : Fin n) : (Vector.replicate n a).get k = a := by
  simp [Vector.get_eq_getElem]

/-- Settles O15: the registers are those of the zeroed state but for the three the end of Reset writes, and the memory
is the image of the two loads. -/
theorem resetEstablishesStatedValues : Obligations.ResetEstablishesStatedValues := by
  intro s a es hs good
  obtain ⟨m, reset, image⟩ := resetEvent_wellFormed good (s.setSchedule es)
  refine ⟨started a (s.setSchedule es) m, by rw [step_reset hs, reset], fun r => replicate_get 0 r, rfl, rfl, rfl,
    fun k => replicate_get 0 k, rfl, rfl, rfl, rfl, fun row col => ?_, rfl, rfl, rfl, rfl, image⟩
  exact clearDisplay_pixel s row col

/-! ### The state after Reset -/

/-- Write a byte string into a memory from an address up. -/
def writeBytes : List Byte → Nat → Memory → Memory
  | [], _, m => m
  | b :: bs, a, m => writeBytes bs (a + 1) (Memory.write m a b)

/-- A load that fits only writes the memory (R260). -/
theorem loadBytes_eq_writeBytes {bs : List Byte} {a : Nat} (s : State) (h : a + bs.length ≤ 0x1000) :
    loadBytes bs a s = (s.setMem (writeBytes bs a s.mem), none) := by
  induction bs generalizing a s with
  | nil => rfl
  | cons b bs ih =>
    rw [List.length_cons] at h
    have inside : a < 0x1000 := by omega
    simp only [loadBytes, memWrite_ok inside]
    exact ih _ (by omega)

theorem writeBytes_font : writeBytes Config.font 0 [] = State.resetMem := by decide +kernel

/-- Settles O17: the font fills the empty memory with the listed cells, the empty ROM adds none, and the seed 1
advanced by 16 steps is the listed generator state. -/
theorem resetStateComesFromResetEvent : Obligations.ResetStateComesFromResetEvent := by
  intro s
  have font : loadBytes Config.font 0 (zeroed s) = ((zeroed s).setMem State.resetMem, none) := by
    rw [← writeBytes_font]
    exact loadBytes_eq_writeBytes (zeroed s) (by decide)
  have rng : nextRng^[16] Config.resetArgs.seed = Config.resetRng := by
    rw [← advanceRng_eq_iterate]
    decide
  have loaded : (loadBytes Config.font Config.resetArgs.fontBase.toNat (zeroed s)).1 =
      (zeroed s).setMem State.resetMem :=
    congrArg Prod.fst font
  rw [resetEvent_fits (by decide) (by decide), startCore_seeded (by decide), rng, loaded]
  rfl

/-- Settles O21: the font is a canonical memory, 0xB111 is not 0, and the stack and the schedule are empty. -/
theorem resetStateMeetsInvariants : Obligations.ResetStateMeetsInvariants := by
  refine ⟨Memory.wf_resetMem, by unfold RngNonzero; decide, by decide, fun k hk => ?_, fun a ha => ?_⟩
  · exact absurd hk (Nat.not_lt_zero k.val)
  · exact absurd ha List.not_mem_nil

/-! ### The self-jump -/

/-- Settles O14: the jump writes the `PC` that is there, and the bytes at `PC` are as before. -/
theorem selfJumpChangesNothing : Obligations.SelfJumpChangesNothing := by
  rintro s k es ⟨running, nnn, fetched, self⟩ hs
  have sampled := (fetch_setSchedule_setKeys s es k).trans fetched
  refine ⟨?_, running, nnn, sampled, self⟩
  rw [step_cpuCycle_running hs running, runInstruction_of_decode_ok sampled (decode_encode (.jp nnn)), exec_jp, ← self]
  rfl

end Sys2Proof.Machine

/-! The call stack, the arithmetic and index instructions, the key wait and the random byte (R29, R30, R101 to R109,
R134, R150, R151, R192, R196; O31, O34 to O37, O39, O42, O44, O54, O60). -/

namespace Sys2Proof.Machine

/-! ### The call stack -/

theorem foldlM_push {vs : List Word} {s : State} (room : s.sp.val + vs.length ≤ 16) :
    ∃ t, vs.foldlM push s = .ok t ∧ t.sp.val = s.sp.val + vs.length := by
  induction vs generalizing s with
  | nil => exact ⟨s, rfl, rfl⟩
  | cons v vs ih =>
    rw [List.length_cons] at room
    have one : s.sp.val < 16 := by omega
    have rest : s.sp.val + 1 + vs.length ≤ 16 := by omega
    obtain ⟨t, ht, hsp⟩ := ih (s := s.setStack (s.stack.set s.sp.val v one) ⟨s.sp.val + 1, by omega⟩) rest
    refine ⟨t, ?_, ?_⟩
    · rw [List.foldlM_cons, push_ok one]
      exact ht
    · have pushed : (s.setStack (s.stack.set s.sp.val v one) ⟨s.sp.val + 1, by omega⟩).sp.val = s.sp.val + 1 := rfl
      rw [hsp, pushed, List.length_cons]
      omega

theorem push_cases {s t : State} {v : Word} (h : push s v = .ok t) :
    ∃ room : s.sp.val < 16, t = s.setStack (s.stack.set s.sp.val v room) ⟨s.sp.val + 1, by omega⟩ := by
  by_cases room : s.sp.val < 16
  · exact ⟨room, Except.ok.inj (h.symm.trans (push_ok room v))⟩
  · cases (push_full room v).symm.trans h

/-- Settles O31: each push takes one of the 16 entries, and a pop reads the entry that the last push wrote. -/
theorem stackHoldsSixteenAddresses : Obligations.StackHoldsSixteenAddresses := by
  refine ⟨fun s vs empty len => ?_, fun s t v h => ?_, fun s empty => pop_empty (by simp [empty])⟩
  · obtain ⟨t, ht, hsp⟩ := foldlM_push (vs := vs) (s := s) (by simp [empty, len])
    have full : t.sp.val = 16 := by simp [hsp, empty, len]
    exact ⟨t, ht, full, fun v => push_full (by omega) v⟩
  · obtain ⟨room, rfl⟩ := push_cases h
    have top : (s.stack.set s.sp.val v room)[s.sp.val + 1 - 1] = v := Vector.getElem_set_self room
    refine ⟨_, (pop_ok (Nat.succ_pos _)).trans (congrArg (fun w => Except.ok (w, _)) top), rfl, fun k hk => ?_⟩
    exact (stack_set_get s.stack s.sp.val room v k).trans (if_neg (Nat.ne_of_lt hk))

/-! ### A call and its return -/

theorem Keeps.trans {s t u : State} {p : Part} (h : Keeps s t p) (h' : Keeps t u p) : Keeps s u p := by
  cases p with
  | regs => exact fun r => (h' r).trans (h r)
  | entries => exact fun k => (h' k).trans (h k)
  | memory => exact fun a => (h' a).trans (h a)
  | display => exact fun row col => (h' row col).trans (h row col)
  | inputs => exact ⟨h'.1.trans h.1, h'.2.trans h.2⟩
  | _ => exact Eq.trans h' h

/-- Settles O42: the return pops the entry that the call pushed. -/
theorem returnUndoesCall : Obligations.ReturnUndoesCall := by
  intro s nnn room
  obtain ⟨-, call, -⟩ := callPushesReturnAddress s nnn
  obtain ⟨t, ht, -, sp, entries, frame⟩ := call room
  obtain ⟨-, ret, -⟩ := returnPopsReturnAddress t
  obtain ⟨u, hu, pc, sp', frame'⟩ := ret ⟨s.sp.val, room⟩ sp
  have entries' : ∀ k, u.stack.get k = t.stack.get k := frame' .entries (by decide)
  refine ⟨t, u, ht, hu, ?_, Fin.ext sp', fun k hk => ?_, fun p hp => ?_⟩
  · rw [pc, entries, if_pos rfl]
  · rw [entries', entries, if_neg (Nat.ne_of_lt hk)]
  · obtain ⟨-, notSp⟩ := not_or.1 (mt List.mem_cons.2 hp)
    exact (frame p hp).trans (frame' p notSp)

/-! ### Sums, differences and shifts of bytes -/

theorem ofNat_add_mod (a b : Byte) : BitVec.ofNat 8 ((a.toNat + b.toNat) % 256) = a + b :=
  BitVec.eq_of_toNat_eq (by simp)

theorem ofNat_sub_mod (a b : Byte) : BitVec.ofNat 8 ((a.toNat + 256 - b.toNat) % 256) = a - b := by
  have hb := b.isLt
  apply BitVec.eq_of_toNat_eq
  rw [BitVec.toNat_ofNat, BitVec.toNat_sub]
  omega

theorem ofNat_half (a : Byte) : BitVec.ofNat 8 (a.toNat / 2) = a >>> 1 := by
  have ha := a.isLt
  apply BitVec.eq_of_toNat_eq
  rw [BitVec.toNat_ofNat, BitVec.toNat_ushiftRight, Nat.shiftRight_eq_div_pow]
  omega

theorem ofNat_double_mod (a : Byte) : BitVec.ofNat 8 (a.toNat * 2 % 256) = a <<< 1 := by
  apply BitVec.eq_of_toNat_eq
  rw [BitVec.toNat_ofNat, BitVec.toNat_shiftLeft, Nat.shiftLeft_eq]
  omega

theorem shrOut_eq (a : Byte) : shrOut a = decide (a.toNat % 2 = 1) := by
  rw [shrOut, BitVec.getLsbD, Nat.testBit_zero]

theorem shlOut_eq (a : Byte) : shlOut a = decide (a.toNat ≥ 128) := by
  have top : a.getLsbD 7 = a.msb := (BitVec.msb_eq_getLsbD_last a).symm
  rw [shlOut, top, BitVec.msb_eq_decide]

/-- Settles O34: the sum on eight bits is the sum modulo 256, written to one register. -/
theorem addImmediateWraps : Obligations.AddImmediateWraps := by
  intro s x nn
  refine ⟨decode_encode (.addImm x nn), _, exec_addImm x nn s, ?_⟩
  rw [ofNat_add_mod]
  exact writesReg_setReg s x (s.reg x + nn)

/-- Settles O35: each of the three is one write of a register, whose bits are those of the operation. -/
theorem logicIsBitwise : Obligations.LogicIsBitwise := by
  intro s x y
  refine ⟨decode_encode (.orReg x y), decode_encode (.andReg x y), decode_encode (.xorReg x y), ?_, ?_, ?_⟩
  · exact ⟨_, _, exec_orReg x y s, writesReg_setReg s x _, fun _ _ => BitVec.getLsbD_or⟩
  · exact ⟨_, _, exec_andReg x y s, writesReg_setReg s x _, fun _ _ => BitVec.getLsbD_and⟩
  · exact ⟨_, _, exec_xorReg x y s, writesReg_setReg s x _, fun _ _ => BitVec.getLsbD_xor⟩

/-- Settles O36: result and flag are computed from the old values, and the flag is written last. -/
theorem addSubtractWithFlag : Obligations.AddSubtractWithFlag := by
  intro s x y
  refine ⟨decode_encode (.addReg x y), decode_encode (.subReg x y), decode_encode (.subnReg x y), ?_, ?_, ?_⟩
  · rw [ofNat_add_mod]
    exact ⟨_, exec_addReg x y s, writesRegAndFlag_setResult s x _ _⟩
  · rw [ofNat_sub_mod]
    exact ⟨_, exec_subReg x y s, writesRegAndFlag_setResult s x _ _⟩
  · rw [ofNat_sub_mod]
    exact ⟨_, exec_subnReg x y s, writesRegAndFlag_setResult s x _ _⟩

/-- Settles O37: the shifts halve and double, and the bit that leaves is the lowest or the highest of the old value. -/
theorem shiftsByOneWithFlag : Obligations.ShiftsByOneWithFlag := by
  intro s x y
  refine ⟨decode_encode (.shr x y), decode_encode (.shl x y), ?_, ?_⟩
  · rw [ofNat_half, ← shrOut_eq]
    exact ⟨_, exec_shr x y s, writesRegAndFlag_setResult s x _ _⟩
  · rw [ofNat_double_mod, ← shlOut_eq]
    exact ⟨_, exec_shl x y s, writesRegAndFlag_setResult s x _ _⟩

/-! ### Sums of words -/

/-- Settles O39: the sum of 12 and 8 bits fits 16, so it is not reduced. -/
theorem jumpWithOffsetAddsV0 : Obligations.JumpWithOffsetAddsV0 := by
  intro s nnn
  exact ⟨decode_encode (.jpV0 nnn), _, exec_jpV0 nnn s, zextNNN_add_byte_toNat nnn (s.reg 0), setPc_frame s _⟩

theorem zextByte_toNat (b : Byte) : (zextByte b).toNat = b.toNat := BitVec.toNat_setWidth_of_le (by decide)

theorem fontAddr_toNat (s : State) (b : Byte) :
    (fontAddr s b).toNat = (s.fontBase.toNat + 5 * b.toNat) % 65536 := by
  have five : (5 : Word).toNat = 5 := rfl
  rw [fontAddr, BitVec.toNat_add, BitVec.toNat_mul, five, zextByte_toNat]
  omega

/-- Settles O44: both are one write of `I`, computed on 16 bits. -/
theorem indexArithmeticWraps : Obligations.IndexArithmeticWraps := by
  intro s x
  refine ⟨decode_encode (.addI x), decode_encode (.ldF x), ?_, ?_⟩
  · refine ⟨_, exec_addI x s, ?_, rfl, setI_setPc_frame s _ _⟩
    rw [State.setPc_i, State.setI_i, BitVec.toNat_add, zextByte_toNat]
  · exact ⟨_, exec_ldF x s, fontAddr_toNat s (s.reg x), rfl, setI_setPc_frame s _ _⟩

/-! ### The key wait -/

/-- Settles O54: `FX0A` waits exactly when every key bit is 0, and else takes the lowest one that is set. -/
theorem keyWaitTakesLowestHeldKey : Obligations.KeyWaitTakesLowestHeldKey := by
  intro s x
  refine ⟨decode_encode (.ldVxK x), fun noKey => ?_, fun someKey => ?_⟩
  · exact exec_ldVxK_wait x s (heldKey_none.2 fun k _ => by simp [State.keyDown, noKey])
  · cases held : heldKey .levelLowest s with
    | none =>
      have up (k : Nat) (hk : k < 16) : s.keys.getLsbD k = false := heldKey_none.1 held k hk
      exact absurd (BitVec.eq_of_getLsbD_eq fun k hk => (up k hk).trans (by simp)) someKey
    | some k =>
      obtain ⟨hk, down, lowest⟩ := heldKey_some.1 held
      exact ⟨_, k, exec_ldVxK x s k held, hk, down, lowest, writesReg_setReg s x _⟩

/-! ### The random byte -/

/-- The bits of a generator state move down one place with each step (R201). -/
theorem iterate_nextRng_getLsbD (n : Nat) (r : Word) {k : Nat} (hk : k + n ≤ 15) :
    (nextRng^[n] r).getLsbD k = r.getLsbD (k + n) := by
  induction n generalizing k with
  | zero => rfl
  | succ n ih =>
    rw [Function.iterate_succ_apply', nextRng_getLsbD, if_neg (by omega), ih (by omega), Nat.add_right_comm,
      Nat.add_assoc]

/-- After eight steps the byte stands in the high half of the register, in reverse order (R202). -/
theorem getByte_getLsbD (r : Word) {j : Nat} (hj : j < 8) :
    (getByte r).1.getLsbD j = (nextRng^[8] r).getLsbD (15 - j) := by
  obtain ⟨-, bits⟩ := getByteCollectsEightBits r
  have split : nextRng^[8] r = nextRng^[j] (nextRng^[8 - j] r) := by
    rw [← Function.iterate_add_apply]
    congr 1
    omega
  have bit := bits (7 - j) (by omega)
  rw [split, iterate_nextRng_getLsbD j _ (by omega)]
  rw [show 7 - (7 - j) = j by omega, show 7 - j + 1 = 8 - j by omega] at bit
  rw [bit, show 15 - j + j = 15 by omega]

/-- Settles O60: the generator advances by the eight steps of `GetByte`, and the AND is bit by bit. -/
theorem randomByteIsMasked : Obligations.RandomByteIsMasked := by
  intro s x nn
  obtain ⟨rng, bits⟩ := getByteCollectsEightBits s.rng
  have start := SameFields.refl [.regs, .rng] s
  refine ⟨decode_encode (.rnd x nn), _, exec_rnd x nn s, rng, fun j hj => ?_, fun j hj => ?_, fun r hr => ?_, rfl,
    (((start.setRng mem_second _).setReg (.head _) _ _).setPc _).frame⟩
  · rw [State.setPc_reg, State.setReg_reg, if_pos rfl, BitVec.getLsbD_and, bits j hj]
  · rw [State.setPc_reg, State.setReg_reg, if_pos rfl, BitVec.getLsbD_and, getByte_getLsbD s.rng hj, ← rng]
    rfl
  · exact setReg_reg_of_other (by simpa using hr) _

end Sys2Proof.Machine

/-! The instructions that loop over memory: the BCD store, the dump and the load, in range and cut off at the end of the
memory, and the fetch of dumped bytes (R64, R153 to R157; O32, O45, O46, O47). -/

namespace Sys2Proof.Machine

/-! ### Loops of byte stores -/

/-- The memory after storing `byte k` at `I + k` for each `k` below `n` (R154). -/
def StoresBytes (s : State) (n : Nat) (byte : Nat → Byte) (m : Memory) : Prop :=
  ∀ a, Memory.read m a = if s.i.toNat ≤ a ∧ a < s.i.toNat + n then byte (a - s.i.toNat) else s.byteAt a

/-- What a loop of `n` byte stores from `I` up comes to (R155). -/
def StoreLoop (s : State) (n : Nat) (byte : Nat → Byte) (r : State × Option Fault) : Prop :=
  ∃ m, r.1 = s.setMem m ∧ StoresBytes s (inRange s n) byte m ∧
    r.2 = if s.i.toNat + n ≤ 0x1000 ∨ n = 0 then none
      else some (.addressOutOfRange (BitVec.ofNat 16 (effAddr s (0x1000 - s.i.toNat))))

theorem storeLoop_storeDigit (b : Byte) (s : State) (n : Nat) :
    StoreLoop s n (bcdDigit b) (forEach (storeDigit b) (List.range n) s) :=
  forEach_storeDigit b s n

theorem storeLoop_storeReg (s : State) (n : Nat) :
    StoreLoop s n (fun k => s.reg (loopReg k)) (forEach storeReg (List.range n) s) :=
  forEach_storeReg s n

section

variable {s : State} {n : Nat} {byte : Nat → Byte} {m : Memory} {r : State × Option Fault}

theorem StoreLoop.inRange (h : StoreLoop s n byte r) (fits : s.i.toNat + n ≤ 0x1000) :
    ∃ m, StoresBytes s n byte m ∧ endState r = (s.setMem m).setPc (s.pc + 2) := by
  obtain ⟨m, hm, stores, hf⟩ := h
  have all : Machine.inRange s n = n := by unfold Machine.inRange; omega
  rw [if_pos (.inl fits)] at hf
  exact ⟨m, all ▸ stores, by rw [endState, hf, hm]; rfl⟩

theorem StoreLoop.cutOff (h : StoreLoop s n byte r) (beyond : 0x1000 < s.i.toNat + n) (nonempty : n ≠ 0) :
    ∃ m, StoresBytes s (0x1000 - s.i.toNat) byte m ∧
      endState r = (s.setMem m).raise (.addressOutOfRange (BitVec.ofNat 16 (effAddr s (0x1000 - s.i.toNat)))) := by
  obtain ⟨m, hm, stores, hf⟩ := h
  have cut : Machine.inRange s n = 0x1000 - s.i.toNat := by unfold Machine.inRange; omega
  rw [if_neg (not_or.2 ⟨by omega, nonempty⟩)] at hf
  exact ⟨m, cut ▸ stores, by rw [endState, hf, hm]⟩

theorem StoresBytes.read (h : StoresBytes s n byte m) {k : Nat} (hk : k < n) :
    Memory.read m (effAddr s k) = byte k := by
  have inside : s.i.toNat ≤ effAddr s k ∧ effAddr s k < s.i.toNat + n := by unfold effAddr; omega
  rw [h, if_pos inside, effAddr, Nat.add_sub_cancel_left]

theorem StoresBytes.bytesExcept (h : StoresBytes s n byte m) : BytesExcept (effAddr s 0) n s (s.setMem m) := by
  intro a ha
  have outside : ¬(s.i.toNat ≤ a ∧ a < s.i.toNat + n) := by unfold effAddr at ha; omega
  exact (h a).trans (if_neg outside)

end

/-! ### Frames of stores and loads -/

theorem setMem_setPc_frame (s : State) (m : Memory) (pc : Word) : Frame [.memory] s ((s.setMem m).setPc pc) :=
  (((SameFields.refl _ s).setMem (.head _) m).setPc pc).frame

theorem setMem_raise_frame (s : State) (m : Memory) (f : Fault) : Frame [.memory, .fault] s ((s.setMem m).raise f) :=
  (((SameFields.refl _ s).setMem (.head _) m).raise mem_second f).frame

theorem withRegs_setPc_frame (s : State) (v : Vector Byte 16) (pc : Word) : Frame [.regs] s ((s.withRegs v).setPc pc) :=
  (((SameFields.refl _ s).withRegs (.head _) v).setPc pc).frame

theorem withRegs_raise_frame (s : State) (v : Vector Byte 16) (f : Fault) :
    Frame [.regs, .fault] s ((s.withRegs v).raise f) :=
  (((SameFields.refl _ s).withRegs (.head _) v).raise mem_second f).frame

/-! ### The BCD store -/

/-- Settles O45: the loop stores three digits, or those that lie below 0x1000. -/
theorem bcdStoresThreeDigits : Obligations.BcdStoresThreeDigits := by
  intro s x
  have loop := storeLoop_storeDigit (s.reg x) s 3
  refine ⟨decode_encode (.ldB x), _, exec_ldB x s, fun fits => ?_, fun n beyond hn => ?_⟩
  · obtain ⟨m, stores, ht⟩ := loop.inRange (by omega)
    rw [ht]
    exact ⟨stores.read (by decide), stores.read (by decide), stores.read (by decide), stores.bytesExcept, rfl,
      setMem_setPc_frame s m _⟩
  · subst hn
    obtain ⟨m, stores, ht⟩ := loop.cutOff (by omega) (by decide)
    rw [ht]
    exact ⟨fun h0 => stores.read h0, fun h1 => stores.read h1, stores.bytesExcept, rfl, rfl, setMem_raise_frame s m _⟩

/-! ### The dump -/

@[simp] theorem loopReg_val (r : Reg) : loopReg r.val = r := Fin.ofNat_val_eq_self r

/-- Settles O46: the loop stores `V0` to `VX`, or those whose address lies below 0x1000. -/
theorem dumpStoresRegisters : Obligations.DumpStoresRegisters := by
  intro s x
  have loop := storeLoop_storeReg s (x.val + 1)
  refine ⟨decode_encode (.storeRegs x), _, exec_storeRegs x s, fun fits => ?_, fun n beyond hn => ?_⟩
  · obtain ⟨m, stores, ht⟩ := loop.inRange (by omega)
    rw [ht]
    refine ⟨fun r hr => ?_, stores.bytesExcept, rfl, setMem_setPc_frame s m _⟩
    have := stores.read (Nat.lt_succ_of_le (Fin.le_def.1 hr))
    rwa [loopReg_val] at this
  · subst hn
    obtain ⟨m, stores, ht⟩ := loop.cutOff (by omega) (Nat.succ_ne_zero _)
    rw [ht]
    refine ⟨fun r hr => ?_, stores.bytesExcept, rfl, rfl, setMem_raise_frame s m _⟩
    have := stores.read hr
    rwa [loopReg_val] at this

/-- Settles O32: a dump in range leaves `Vk` and `Vk+1` at `I + k` and `I + k + 1`, where the fetch reads. -/
theorem storedBytesAreFetched : Obligations.StoredBytesAreFetched := by
  intro s t x k k' fits h hk hk'
  obtain ⟨-, u, hu, inside, -⟩ := dumpStoresRegisters s x
  cases hu.symm.trans h
  obtain ⟨stored, -⟩ := inside fits
  have le : k'.val ≤ x.val := hk'
  have pc : (s.i + BitVec.ofNat 16 k.val).toNat = effAddr s k.val := by
    rw [BitVec.toNat_add, BitVec.toNat_ofNat, effAddr]
    omega
  have hi := stored k (Fin.le_def.2 (by omega))
  have lo := stored k' hk'
  have next : effAddr s k'.val = effAddr s k.val + 1 := by rw [hk]; rfl
  rw [next] at lo
  have fetched := fetch_ok (s := t.setPc (s.i + BitVec.ofNat 16 k.val))
  rw [State.setPc_pc, pc, State.setPc_byteAt, State.setPc_byteAt, hi, lo] at fetched
  exact fetched (by unfold effAddr; omega)

/-! ### The load -/

/-- Settles O47: the loop loads `V0` to `VX`, or those whose address lies below 0x1000. -/
theorem loadFillsRegisters : Obligations.LoadFillsRegisters := by
  intro s x
  obtain ⟨v, hv, loads, hf⟩ := forEach_loadReg s (x.val + 1) x.isLt
  refine ⟨decode_encode (.loadRegs x), _, exec_loadRegs x s, fun fits => ?_, fun n beyond hn => ?_⟩
  · have all : inRange s (x.val + 1) = x.val + 1 := by unfold inRange; omega
    rw [if_pos (.inl (by omega))] at hf
    rw [endState, hf, hv]
    refine ⟨fun r => (loads r).trans (if_congr ?_ rfl rfl), rfl, withRegs_setPc_frame s v _⟩
    rw [all, Nat.lt_succ_iff, Fin.le_def]
  · subst hn
    have cut : inRange s (x.val + 1) = 0x1000 - s.i.toNat := by unfold inRange; omega
    rw [if_neg (by omega)] at hf
    rw [endState, hf, hv]
    exact ⟨fun r => (loads r).trans (by rw [cut]), rfl, rfl, withRegs_raise_frame s v _⟩

end Sys2Proof.Machine

/-! A sprite of several rows, and the collision of two equal draws (R172, R173, R176, R177; O51, O52). -/

namespace Sys2Proof.Machine

/-! ### Two equal draws -/

/-- The lowest set bit of a byte that is not 0. -/
theorem exists_getLsbD_of_ne_zero {b : Byte} (h : b ≠ 0) : ∃ k < 8, b.getLsbD k = true := by
  by_contra noBit
  push Not at noBit
  exact h (BitVec.eq_of_getLsbD_eq fun k hk => by simpa using noBit k hk)

/-- Each bit of the sprite byte meets a pixel of the row. -/
theorem exists_spriteBit (x : Nat) {b : Byte} (h : b ≠ 0) : ∃ col : Fin 64, spriteBit x b col = true := by
  obtain ⟨k, hk, bit⟩ := exists_getLsbD_of_ne_zero h
  obtain ⟨col, hcol⟩ : ∃ col : Fin 64, col.val = (x + (7 - k)) % 64 := ⟨Fin.ofNat 64 _, rfl⟩
  have offset : columnOffset x col = 7 - k := (columnOffset_eq_iff (by omega)).2 hcol
  refine ⟨col, ?_⟩
  rw [spriteBit_eq, offset, decide_eq_true (by omega), Bool.true_and, show 7 - (7 - k) = k by omega, bit]

/-- Settles O51: a pixel under a set bit is set before the first draw or, being flipped by it, before the second. -/
theorem nonzeroByteCollidesInOneOfTwoDraws : Obligations.NonzeroByteCollidesInOneOfTwoDraws := by
  intro x y b g hb
  obtain ⟨col, bit⟩ := exists_spriteBit x hb
  rw [drawRow_collided, drawRow_collided]
  cases before : (g.get (rowIndex y)).getLsbD col.val with
  | true => exact .inl ⟨rowIndex y, col, rfl, before, bit⟩
  | false =>
    refine .inr ⟨rowIndex y, col, rfl, ?_, bit⟩
    rw [drawRow_pixels, before, bit, decide_eq_true (show (rowIndex y).val = y % 32 from rfl)]
    rfl

/-! ### The rows of a sprite -/

/-- How far display row `row` lies below row `y`, modulo 32: the row of the sprite that meets it (R176). -/
def rowOffset (y : Nat) (row : Fin 32) : Nat := (row.val + 32 - y % 32) % 32

theorem rowOffset_eq_iff {y k : Nat} {row : Fin 32} (hk : k < 32) : rowOffset y row = k ↔ row.val = (y + k) % 32 := by
  unfold rowOffset
  omega

theorem spriteAt_eq (s : State) (x y : Reg) (n : Nat) (row : Fin 32) (col : Fin 64) :
    spriteAt s x y n row col = (decide (rowOffset (s.reg y).toNat row < n) &&
      spriteBit (s.reg x).toNat (s.byteAt (effAddr s (rowOffset (s.reg y).toNat row))) col) := rfl

/-- One more row of the sprite adds its bits on the display row that it meets. -/
theorem spriteAt_succ (s : State) (x y : Reg) {n : Nat} (hn : n < 32) (row : Fin 32) (col : Fin 64) :
    spriteAt s x y (n + 1) row col = (spriteAt s x y n row col ^^
      (decide (row.val = ((s.reg y).toNat + n) % 32) && spriteBit (s.reg x).toNat (s.byteAt (effAddr s n)) col)) := by
  have turn : decide (row.val = ((s.reg y).toNat + n) % 32) = decide (rowOffset (s.reg y).toNat row = n) :=
    decide_eq_decide.2 (rowOffset_eq_iff hn).symm
  rw [spriteAt_eq, spriteAt_eq, turn]
  by_cases meets : rowOffset (s.reg y).toNat row = n
  · simp [meets]
  · have below : rowOffset (s.reg y).toNat row < n + 1 ↔ rowOffset (s.reg y).toNat row < n := by omega
    simp [meets, below]

/-- What the loop of `DXYN` has drawn after `n` rows inside the memory: the display with the sprite's first `n` rows,
and whether one of its pixels was set before (R176, R177). -/
structure Drawn (s : State) (x y : Reg) (n : Nat) (p : State × Bool) : Prop where
  state : ∃ g, p.1 = s.setPix g
  pixels : ∀ row col, p.1.pixel row col = (s.pixel row col ^^ spriteAt s x y n row col)
  collided : p.2 = true ↔ ∃ row col, s.pixel row col = true ∧ spriteAt s x y n row col = true

theorem drawn_zero (s : State) (x y : Reg) : Drawn s x y 0 (s, false) := by
  refine ⟨⟨s.pix, rfl⟩, fun row col => ?_, ?_⟩
  · simp [spriteAt_eq]
  · simp [spriteAt_eq]

/-- The first `n` rows of the sprite do not meet the display row of the next one, since there are at most 32. -/
theorem spriteAt_of_next_row {s : State} {x y : Reg} {n : Nat} (hn : n < 32) {row : Fin 32}
    (hrow : row.val = ((s.reg y).toNat + n) % 32) (col : Fin 64) : spriteAt s x y n row col = false := by
  rw [spriteAt_eq, (rowOffset_eq_iff hn).2 hrow, decide_eq_false (Nat.lt_irrefl n), Bool.false_and]

theorem spriteAt_succ_iff {s : State} {x y : Reg} {n : Nat} (hn : n < 32) {row : Fin 32} {col : Fin 64} :
    spriteAt s x y (n + 1) row col = true ↔ spriteAt s x y n row col = true ∨
      row.val = ((s.reg y).toNat + n) % 32 ∧ spriteBit (s.reg x).toNat (s.byteAt (effAddr s n)) col = true := by
  rw [spriteAt_succ s x y hn]
  by_cases hrow : row.val = ((s.reg y).toNat + n) % 32
  · simp [hrow, spriteAt_of_next_row hn hrow col]
  · simp [hrow]

/-- One row more, its byte inside the memory. -/
theorem Drawn.succ {s : State} {x y : Reg} {n : Nat} {p : State × Bool} (h : Drawn s x y n p) (hn : n < 32)
    (inside : effAddr s n < 0x1000) :
    ∃ p', drawSpriteRow (s.reg x).toNat (s.reg y).toNat n p = .ok p' ∧ Drawn s x y (n + 1) p' := by
  obtain ⟨u, c⟩ := p
  obtain ⟨⟨g, hg⟩, pixels, collided⟩ := h
  obtain rfl : u = s.setPix g := hg
  have row_pixels (row : Fin 32) (col : Fin 64) : (g.get row).getLsbD col.val =
      (s.pixel row col ^^ spriteAt s x y n row col) := pixels row col
  refine ⟨_, drawSpriteRow_ok (s := (s.setPix g, c)) inside, ⟨_, rfl⟩, fun row col => ?_, ?_⟩
  · refine (drawRow_pixels _ _ _ g row col).trans ?_
    rw [row_pixels, spriteAt_succ s x y hn, Bool.xor_assoc]
    rfl
  · refine Bool.or_eq_true_iff.trans ((or_congr collided (drawRow_collided _ _ _ g)).trans ?_)
    constructor
    · rintro (⟨row, col, set, bit⟩ | ⟨row, col, hrow, set, bit⟩)
      · exact ⟨row, col, set, (spriteAt_succ_iff hn).2 (.inl bit)⟩
      · rw [row_pixels, spriteAt_of_next_row hn hrow, Bool.xor_false] at set
        exact ⟨row, col, set, (spriteAt_succ_iff hn).2 (.inr ⟨hrow, bit⟩)⟩
    · rintro ⟨row, col, set, bit⟩
      obtain bit | ⟨hrow, bit⟩ := (spriteAt_succ_iff hn).1 bit
      · exact .inl ⟨row, col, set, bit⟩
      · refine .inr ⟨row, col, hrow, ?_, bit⟩
        rw [row_pixels, spriteAt_of_next_row hn hrow, Bool.xor_false, set]

/-- The loop of `DXYN` draws the rows whose bytes lie inside the memory; the first address outside raises (R176,
R155). -/
theorem forEach_drawSpriteRow (s : State) (x y : Reg) {n : Nat} (hn : n ≤ 32) :
    Drawn s x y (inRange s n)
        (forEach (drawSpriteRow (s.reg x).toNat (s.reg y).toNat) (List.range n) (s, false)).1 ∧
      (forEach (drawSpriteRow (s.reg x).toNat (s.reg y).toNat) (List.range n) (s, false)).2 =
        if s.i.toNat + n ≤ 0x1000 ∨ n = 0 then none
        else some (.addressOutOfRange (BitVec.ofNat 16 (effAddr s (0x1000 - s.i.toNat)))) := by
  induction n with
  | zero => exact ⟨by simpa [inRange] using drawn_zero s x y, by simp⟩
  | succ n ih =>
    obtain ⟨drawn, hf⟩ := ih (by omega)
    rw [List.range_succ]
    rcases hr : forEach (drawSpriteRow (s.reg x).toNat (s.reg y).toNat) (List.range n) (s, false) with ⟨p, f⟩
    rw [hr] at drawn hf
    by_cases before : s.i.toNat + n ≤ 0x1000 ∨ n = 0
    · obtain rfl : f = none := hf.trans (if_pos before)
      have all : inRange s n = n := by unfold inRange; omega
      rw [forEach_snoc_none hr]
      rw [all] at drawn
      by_cases inside : effAddr s n < 0x1000
      · obtain ⟨p', hp', drawn'⟩ := drawn.succ (by omega) inside
        have next : inRange s (n + 1) = n + 1 := by unfold inRange; unfold effAddr at inside; omega
        rw [forEach_cons_ok hp', next, if_pos (by unfold effAddr at inside; omega)]
        exact ⟨drawn', rfl⟩
      · obtain ⟨g, hg⟩ := drawn.state
        have next : inRange s (n + 1) = n := by unfold inRange; unfold effAddr at inside; omega
        have same : effAddr p.1 n = effAddr s n := by rw [hg]; rfl
        have address : effAddr s n = effAddr s (0x1000 - s.i.toNat) := by unfold effAddr at *; omega
        have fails : drawSpriteRow (s.reg x).toNat (s.reg y).toNat n p =
            .error (.addressOutOfRange (BitVec.ofNat 16 (effAddr s (0x1000 - s.i.toNat)))) := by
          rw [drawSpriteRow_error (by rw [same]; omega), same, address]
        rw [forEach_cons_error fails, next, if_neg (by unfold effAddr at inside; omega)]
        exact ⟨drawn, rfl⟩
    · obtain rfl := hf.trans (if_neg before)
      have next : inRange s (n + 1) = inRange s n := by unfold inRange; omega
      rw [forEach_snoc_some hr, next, if_neg (by omega)]
      exact ⟨drawn, rfl⟩

/-- `DXYN` with every byte inside the memory. -/
theorem sprite_inRange {s : State} {x y : Reg} {n : BitVec 4} (fits : n = 0 ∨ s.i.toNat + n.toNat ≤ 0x1000) :
    Drawn s x y n.toNat (sprite x y n s).1 ∧ (sprite x y n s).2 = none := by
  have hn := n.isLt
  obtain ⟨drawn, hf⟩ := forEach_drawSpriteRow s x y (n := n.toNat) (by omega)
  have cases : s.i.toNat + n.toNat ≤ 0x1000 ∨ n.toNat = 0 := fits.symm.imp_right fun h => by rw [h]; rfl
  have all : inRange s n.toNat = n.toNat := by unfold inRange; omega
  exact ⟨all ▸ drawn, hf.trans (if_pos cases)⟩

/-- `DXYN` with a byte outside the memory. -/
theorem sprite_cutOff {s : State} {x y : Reg} {n : BitVec 4} (rows : n ≠ 0) (beyond : 0x1000 < s.i.toNat + n.toNat) :
    Drawn s x y (0x1000 - s.i.toNat) (sprite x y n s).1 ∧
      (sprite x y n s).2 = some (.addressOutOfRange (BitVec.ofNat 16 (effAddr s (0x1000 - s.i.toNat)))) := by
  have hn := n.isLt
  obtain ⟨drawn, hf⟩ := forEach_drawSpriteRow s x y (n := n.toNat) (by omega)
  have nonzero : n.toNat ≠ 0 := fun h => rows (BitVec.eq_of_toNat_eq h)
  have cut : inRange s n.toNat = 0x1000 - s.i.toNat := by unfold inRange; omega
  exact ⟨cut ▸ drawn, hf.trans (if_neg (by omega))⟩

/-- Settles O52: the rows drawn are those of the loop; where all are, `VF` is written last with the loop's collision. -/
theorem drawXorsSpriteAndReportsCollision : Obligations.DrawXorsSpriteAndReportsCollision := by
  intro s x y n
  refine ⟨decode_encode (.drw x y n), _, exec_drw x y n s, fun fits => ?_, fun m rows beyond hm => ?_⟩
  · obtain ⟨⟨⟨g, hg⟩, pixels, collided⟩, hf⟩ := sprite_inRange (x := x) (y := y) fits
    rw [hf]
    generalize sprite x y n s = r at hg pixels collided
    obtain ⟨⟨u, c⟩, f⟩ := r
    obtain rfl : u = s.setPix g := hg
    have start := ((SameFields.refl [.regs, .display] s).setPix mem_second g).setFlag (.head _) c
    have flag : ((s.setPix g).setFlag c).reg vf = flagByte c := (State.setFlag_reg _ c vf).trans (if_pos rfl)
    refine ⟨pixels, ?_, fun r hr => ?_, rfl, (start.setPc _).frame⟩
    · cases c with
      | true => exact .inl ⟨flag, collided.1 rfl⟩
      | false =>
        refine .inr ⟨flag, fun row col set => Bool.eq_false_iff.2 fun bit => ?_⟩
        exact Bool.false_ne_true (collided.2 ⟨row, col, set, bit⟩)
    · exact (State.setFlag_reg (s.setPix g) c r).trans (if_neg (by simpa using hr))
  · subst hm
    obtain ⟨⟨⟨g, hg⟩, pixels, -⟩, hf⟩ := sprite_cutOff (x := x) (y := y) rows beyond
    rw [hf]
    generalize sprite x y n s = r at hg pixels
    obtain ⟨⟨u, c⟩, f⟩ := r
    obtain rfl : u = s.setPix g := hg
    have start := (SameFields.refl [.display, .fault] s).setPix (.head _) g
    exact ⟨pixels, rfl, rfl, (start.raise mem_second _).frame⟩

end Sys2Proof.Machine

/-! The states of the generator other than 0 form one cycle (R204; O59). A step is linear over bits, so a number of
steps is a matrix of 16 columns, and repeated squaring evaluates any number of steps below 65536. -/

namespace Sys2Proof.Machine

/-! ### Matrices of bits -/

/-- The exclusive-or of the columns that the bits of `r` select, bit 0 selecting the first. -/
def applyColumns : List Word → Word → Word
  | [], _ => 0
  | c :: cs, r => (if r.getLsbD 0 then c else 0) ^^^ applyColumns cs (r >>> 1)

/-- The map preserves exclusive-or. -/
def XorLinear (f : Word → Word) : Prop := ∀ a b, f (a ^^^ b) = f a ^^^ f b

namespace XorLinear

variable {f : Word → Word}

theorem map_zero (h : XorLinear f) : f 0 = 0 := by
  have twice := h 0 0
  rwa [BitVec.xor_self, BitVec.xor_self] at twice

/-- The columns of a composition. -/
theorem apply_applyColumns (h : XorLinear f) (cs : List Word) (r : Word) :
    f (applyColumns cs r) = applyColumns (cs.map f) r := by
  induction cs generalizing r with
  | nil => exact h.map_zero
  | cons c cs ih =>
    rw [applyColumns, h, ih, List.map_cons, applyColumns, apply_ite f, h.map_zero]

end XorLinear

/-- A word is its lowest bit and the word above it. -/
theorem xor_lowest_shiftLeft (r : Word) (j : Nat) :
    (if r.getLsbD 0 then BitVec.twoPow 16 j else 0) ^^^ ((r >>> 1) <<< (j + 1)) = r <<< j := by
  refine BitVec.eq_of_getLsbD_eq fun k hk => ?_
  have lowest : (if r.getLsbD 0 then BitVec.twoPow 16 j else 0).getLsbD k = (decide (j = k) && r.getLsbD 0) := by
    generalize r.getLsbD 0 = b
    cases b with
    | false => simp
    | true =>
      have bound : j = k → j < 16 := by omega
      rw [if_pos rfl, BitVec.getLsbD_twoPow, Bool.and_true, ← Bool.decide_and]
      exact decide_eq_decide.2 (and_iff_right_of_imp bound)
  rw [BitVec.getLsbD_xor, lowest, BitVec.getLsbD_shiftLeft, BitVec.getLsbD_shiftLeft, BitVec.getLsbD_ushiftRight]
  obtain below | rfl | above := Nat.lt_trichotomy k j
  · have outside : k < j + 1 := by omega
    rw [decide_eq_false (Nat.ne_of_gt below), decide_eq_true outside, decide_eq_true below]
    simp
  · rw [decide_eq_true rfl, decide_eq_true (Nat.lt_succ_self k), Nat.sub_self, decide_eq_true hk]
    simp
  · have inside : ¬k < j + 1 := by omega
    have inside' : ¬k < j := by omega
    have place : 1 + (k - (j + 1)) = k - j := by omega
    rw [decide_eq_false (Nat.ne_of_lt above), decide_eq_false inside, decide_eq_false inside', place, Bool.false_and,
      Bool.false_xor]

/-- A linear map has as its columns what it makes of the single bits. -/
theorem applyColumns_of_linear {f : Word → Word} (h : XorLinear f) (n j : Nat) (r : Word) (hr : r >>> n = 0) :
    applyColumns ((List.range' j n).map fun k => f (BitVec.twoPow 16 k)) r = f (r <<< j) := by
  induction n generalizing j r with
  | zero =>
    obtain rfl : r = 0 := by simpa using hr
    have shifted : (0 : Word) <<< j = 0 := BitVec.zero_shiftLeft j
    rw [shifted, h.map_zero]
    rfl
  | succ n ih =>
    have above : (r >>> 1) >>> n = 0 := by rw [← BitVec.shiftRight_add, Nat.add_comm, hr]
    rw [List.range'_succ, List.map_cons, applyColumns, ih (j + 1) _ above, ← xor_lowest_shiftLeft r j, h, apply_ite f,
      h.map_zero]

/-! ### The generator's matrix -/

theorem nextRng_linear : XorLinear nextRng := by
  intro a b
  have feedback : feedbackBit (a ^^^ b) = (feedbackBit a ^^ feedbackBit b) := by
    simp only [feedbackBit, BitVec.getLsbD_xor, Bool.xor_assoc, Bool.xor_left_comm]
  refine BitVec.eq_of_getLsbD_eq fun k _ => ?_
  rw [BitVec.getLsbD_xor, nextRng_getLsbD, nextRng_getLsbD, nextRng_getLsbD]
  split
  · exact feedback
  · exact BitVec.getLsbD_xor

/-- What one step makes of each single bit. -/
def nextColumns : List Word := (List.range' 0 16).map fun k => nextRng (BitVec.twoPow 16 k)

theorem nextRng_eq_applyColumns (r : Word) : nextRng r = applyColumns nextColumns r := by
  have all : r >>> 16 = 0 := BitVec.ushiftRight_eq_zero (Nat.le_refl 16)
  rw [nextColumns, applyColumns_of_linear nextRng_linear 16 0 r all, BitVec.shiftLeft_zero]

/-! ### Many steps at once -/

/-- `n` times the matrix `cs`, by the `b` lowest binary digits of `n`. -/
def applyPower : Nat → List Word → Nat → Word → Word
  | 0, _, _, r => r
  | b + 1, cs, n, r => applyPower b (cs.map (applyColumns cs)) (n / 2) (if n % 2 = 1 then applyColumns cs r else r)

theorem applyPower_eq_iterate {f : Word → Word} (h : XorLinear f) {b n : Nat} {cs : List Word}
    (hcs : ∀ r, f r = applyColumns cs r) (hn : n < 2 ^ b) (r : Word) : applyPower b cs n r = f^[n] r := by
  induction b generalizing f n cs r with
  | zero =>
    obtain rfl : n = 0 := by omega
    rfl
  | succ b ih =>
    have square : XorLinear f^[2] := fun a b => (congrArg f (h a b)).trans (h (f a) (f b))
    have squareColumns (r : Word) : f^[2] r = applyColumns (cs.map (applyColumns cs)) r := by
      have mapped : cs.map (applyColumns cs) = cs.map f := List.map_congr_left fun c _ => (hcs c).symm
      rw [mapped, ← h.apply_applyColumns, ← hcs]
      rfl
    have digit : (if n % 2 = 1 then applyColumns cs r else r) = f^[n % 2] r := by
      obtain even | odd := Nat.mod_two_eq_zero_or_one n
      · rw [even]
        rfl
      · rw [odd, if_pos rfl, ← hcs]
        rfl
    rw [applyPower, digit, ih square squareColumns (by omega), ← Function.iterate_mul, ← Function.iterate_add_apply,
      Nat.div_add_mod]

/-- The evaluations behind the period: 65535 steps lead from 1 to 1, and 65535 divided by a prime factor do not. -/
theorem applyPower_nextColumns :
    applyPower 16 nextColumns 65535 1 = 1 ∧ applyPower 16 nextColumns 21845 1 ≠ 1 ∧
      applyPower 16 nextColumns 13107 1 ≠ 1 ∧ applyPower 16 nextColumns 3855 1 ≠ 1 ∧
      applyPower 16 nextColumns 255 1 ≠ 1 := by decide +kernel

theorem iterate_nextRng_eq_applyPower {n : Nat} (hn : n < 65536) : nextRng^[n] 1 = applyPower 16 nextColumns n 1 :=
  (applyPower_eq_iterate nextRng_linear nextRng_eq_applyColumns hn 1).symm

/-! ### The cycle -/

theorem isPeriodicPt_nextRng : Function.IsPeriodicPt nextRng 65535 1 := by
  obtain ⟨back, -⟩ := applyPower_nextColumns
  exact (iterate_nextRng_eq_applyPower (by decide)).trans back

theorem not_isPeriodicPt_nextRng {n : Nat} (hn : n = 21845 ∨ n = 13107 ∨ n = 3855 ∨ n = 255) :
    ¬Function.IsPeriodicPt nextRng n 1 := by
  obtain ⟨-, by3, by5, by17, by257⟩ := applyPower_nextColumns
  intro h
  have h := (iterate_nextRng_eq_applyPower (by omega)).symm.trans h
  obtain rfl | rfl | rfl | rfl := hn
  · exact by3 h
  · exact by5 h
  · exact by17 h
  · exact by257 h

/-- A divisor of 65535 other than 65535 divides 65535 divided by one of its prime factors 3, 5, 17, 257. -/
theorem dvd_of_proper_dvd {m : Nat} (h : m ∣ 65535) (hne : m ≠ 65535) :
    ∃ n, (n = 21845 ∨ n = 13107 ∨ n = 3855 ∨ n = 255) ∧ m ∣ n := by
  obtain ⟨q, hq⟩ := h
  have q1 : q ≠ 1 := by rintro rfl; omega
  obtain ⟨p, hp, q', rfl⟩ := Nat.exists_prime_and_dvd q1
  have factors : p ∣ 3 * 5 * 17 * 257 := ⟨m * q', by rw [Nat.mul_left_comm]; exact hq⟩
  rw [hp.dvd_mul, hp.dvd_mul, hp.dvd_mul, Nat.prime_dvd_prime_iff_eq hp (by norm_num),
    Nat.prime_dvd_prime_iff_eq hp (by norm_num), Nat.prime_dvd_prime_iff_eq hp (by norm_num),
    Nat.prime_dvd_prime_iff_eq hp (by norm_num)] at factors
  refine ⟨m * q', ?_, Nat.dvd_mul_right m q'⟩
  rw [Nat.mul_left_comm] at hq
  obtain ((rfl | rfl) | rfl) | rfl := factors
  · omega
  · omega
  · omega
  · omega

theorem minimalPeriod_nextRng : Function.minimalPeriod nextRng 1 = 65535 := by
  by_contra hne
  obtain ⟨n, hn, hdvd⟩ := dvd_of_proper_dvd isPeriodicPt_nextRng.minimalPeriod_dvd hne
  exact not_isPeriodicPt_nextRng hn (Function.isPeriodicPt_iff_minimalPeriod_dvd.2 hdvd)

/-- The first 65535 states from 1 differ, and there are no more states other than 0. -/
theorem exists_iterate_nextRng {r : Word} (h : r ≠ 0) : ∃ n < 65535, nextRng^[n] 1 = r := by
  have distinct : Set.InjOn (fun n => (nextRng^[n] 1).toNat) (Finset.range 65535) := by
    intro m hm n hn heq
    have hm : m < 65535 := Finset.mem_range.1 hm
    have hn : n < 65535 := Finset.mem_range.1 hn
    rw [← minimalPeriod_nextRng] at hm hn
    exact (Function.iterate_eq_iterate_iff_of_lt_minimalPeriod hm hn).1 (BitVec.eq_of_toNat_eq heq)
  have nonzero : Set.MapsTo (fun n => (nextRng^[n] 1).toNat) (Finset.range 65535) (Finset.Ico 1 65536) := by
    intro n _
    have ne : nextRng^[n] 1 ≠ 0 := iterate_nextRng_ne_zero (by decide) n
    have pos : (nextRng^[n] 1).toNat ≠ 0 := fun h => ne (BitVec.eq_of_toNat_eq h)
    exact Finset.mem_coe.2 (Finset.mem_Ico.2 ⟨Nat.pos_of_ne_zero pos, (nextRng^[n] 1).isLt⟩)
  have onto := Finset.surjOn_of_injOn_of_card_le _ nonzero distinct (by simp)
  have pos : r.toNat ≠ 0 := fun h' => h (BitVec.eq_of_toNat_eq h')
  obtain ⟨n, hn, heq⟩ := onto (Finset.mem_coe.2 (Finset.mem_Ico.2 ⟨Nat.pos_of_ne_zero pos, r.isLt⟩))
  exact ⟨n, Finset.mem_range.1 (Finset.mem_coe.1 hn), BitVec.eq_of_toNat_eq heq⟩

/-- Settles O59: the least period of 1 is 65535, so its iterates are as many as the states other than 0. -/
theorem generatorStatesFormOneCycle : Obligations.GeneratorStatesFormOneCycle := by
  refine ⟨nextRng_zero, nextRng_injective, fun r h => iterate_nextRng_ne_zero h 1, isPeriodicPt_nextRng,
    fun n pos hn => ?_, fun r h => exists_iterate_nextRng h⟩
  exact Function.not_isPeriodicPt_of_pos_of_lt_minimalPeriod (Nat.ne_of_gt pos) (minimalPeriod_nextRng ▸ hn)

end Sys2Proof.Machine
